-- ==== Sys2Proof/Config.lean ====
section
/-! DEFINITION. The types of the implementation parameters (spec/00_scope.md R7), and the constants
the spec leaves open, which have no body: nothing can be proved of their values. The values the spec
fixes for this block stand in Machine/Parameters.lean. -/

namespace Sys2Proof

/-- The readings of the CRC algorithm (spec/40_crc.md R63). -/
inductive CrcVariant where
  /-- Right shift with 0x8C: the block's variant. -/
  | refl8C
  /-- Right shift with 0xE0. -/
  | reflE0
  /-- Left shift with 0x07. -/
  | tmcL07
  deriving DecidableEq, Repr

/-- `REPLY_LAYOUT`: the length of a read reply and the offsets of its fields (R7, R57). -/
structure ReplyLayout where
  /-- The whole length `L`, the CRC byte included. -/
  len : Nat
  /-- The offset of the node-address echo. -/
  addrOff : Nat
  /-- The offset of the register echo. -/
  regOff : Nat
  /-- The offset of the first of the four payload bytes. -/
  dataOff : Nat
  deriving DecidableEq, Repr

/-- The three cached chip registers (spec/10_state.md R15, R21). -/
inductive Shadow where
  | gconf
  | nodeconf
  | chopconf
  deriving DecidableEq, Repr

/-- The name of a descriptor (spec/41_register_map.md R67): the seven names of R68, and a number for
any further name a register table may hold (DESIGN CHOICE, entry 14). -/
inductive RegName where
  | rGconf
  | rSgResult
  | rChopconf
  | wGconf
  | wNodeconf
  | wVactual
  | wChopconf
  | other (n : Nat)
  deriving DecidableEq, Repr

/-- One row of `REG_TABLE` (spec/41_register_map.md R67). `shadow = none` is the spec's `NONE`. -/
structure Descriptor where
  rid : Byte
  name : RegName
  mask : Word
  shift : Fin 32
  shadow : Option Shadow
  deriving DecidableEq, Repr

/-- `DIRECTION_SIGN`: +1 or -1 (R7). -/
inductive DirectionSign where
  | plus
  | minus
  deriving DecidableEq, Repr

/-- The eight parameters of spec/00_scope.md R7: configuration, fixed for the life of a block
(spec/10_state.md R26). -/
structure Params where
  crcVariant : CrcVariant
  replyLayout : ReplyLayout
  regTable : List Descriptor
  /-- Oscillator frequency in Hz. -/
  fClk : Nat
  vactualWidth : Nat
  directionSign : DirectionSign
  /-- Opaque to the block: handed to `Receive`. -/
  rxTimeout : Nat
  /-- Opaque to the block: handed to `TimerStart`. -/
  pulseRate : Word
  deriving DecidableEq, Repr

/-- What `Transmit` answers (spec/60_exceptions.md R107). -/
inductive TxAnswer where
  | ok
  | ioError
  deriving DecidableEq, Repr, Inhabited

/-- What `Receive` answers (spec/60_exceptions.md R107): bytes, or `IoError`. -/
inductive RxAnswer where
  | ioError
  | bytes (bs : List Byte)
  deriving DecidableEq, Repr, Inhabited

/-- `RX_TIMEOUT`, which the spec leaves OPEN (R7, D30; entry 10). -/
opaque Config.rxTimeout : Nat

/-- `PULSE_RATE`, which the spec leaves OPEN (R7, D28; entry 10). -/
opaque Config.pulseRate : Word

/-- What the UART answers to the `k`-th `Transmit` when State scripts no answer: free (R107; entry 7). -/
opaque Config.txAnswer : Nat → TxAnswer

/-- What the UART answers to the `k`-th `Receive` when State scripts no answer: free (R107; entry 7). -/
opaque Config.rxAnswer : Nat → RxAnswer

/-- Byte `i` of what the line holds at the `k`-th `Receive`, where the answer does not say it: free
(R107; entry 8). -/
opaque Config.lineByte : Nat → Nat → Byte

end Sys2Proof
end

