-- ==== Sys2Proof/Machine/Crc.lean ====
section
/-! DEFINITION. The CRC engine (spec/40_crc.md R63). -/

namespace Sys2Proof.Machine

/-- One bit step: the register `c` takes the data bit `d` (R63). -/
def crcBit (v : CrcVariant) (c : Byte) (d : Bool) : Byte :=
  match v with
  | .refl8C => if (c.getLsbD 0 ^^ d) = true then (c >>> 1) ^^^ 0x8C#8 else c >>> 1
  | .reflE0 => if (c.getLsbD 0 ^^ d) = true then (c >>> 1) ^^^ 0xE0#8 else c >>> 1
  | .tmcL07 => if (c.getLsbD 7 ^^ d) = true then (c <<< 1) ^^^ 0x07#8 else c <<< 1

/-- One byte, its bits least significant first (R34, R63). -/
def crcByte (v : CrcVariant) (c : Byte) (d : Byte) : Byte :=
  (List.range 8).foldl (fun c i => crcBit v c (d.getLsbD i)) c

/-- The CRC register after the bytes of `s`, from the value `c`. -/
def crcFrom (v : CrcVariant) (c : Byte) (s : List Byte) : Byte := s.foldl (crcByte v) c

/-- `crc8(s)`: initial value 0x00, no final XOR (R63). -/
def crc8 (v : CrcVariant) (s : List Byte) : Byte := crcFrom v 0x00#8 s

end Sys2Proof.Machine
end

