-- ==== Sys2Proof/Machine/Operands.lean ====
section
/-! DEFINITION. Operand assembly: the byte order and the operand encodings of spec/00_scope.md R10
and spec/30_encoding.md R53, R54, R59. -/

namespace Sys2Proof.Machine

/-- The four bytes of a 32-bit value, most significant first (R10). -/
def be32 (v : Word) : List Byte :=
  [v.extractLsb' 24 8, v.extractLsb' 16 8, v.extractLsb' 8 8, v.extractLsb' 0 8]

/-- The 32-bit value of four bytes, most significant first (R10). -/
def unbe32 (a b c d : Byte) : Word := a ++ b ++ c ++ d

/-- The 16-bit value of two bytes, most significant first (R59). -/
def unbe16 (a b : Byte) : BitVec 16 := a ++ b

/-- The two bytes of a 16-bit value, most significant first (R33). -/
def be16 (v : BitVec 16) : List Byte := [v.extractLsb' 8 8, v.extractLsb' 0 8]

/-- The node of a node byte: bits 1:0, where bits 7:2 are 0 (R54). -/
def nodeOf? (n : Byte) : Option (BitVec 2) :=
  if n.extractLsb' 2 6 = 0 then some (n.extractLsb' 0 2) else none

/-- The direction bit of a register identifier: true for writable (R53). -/
def ridWritable (rid : Byte) : Bool := rid.getLsbD 7

/-- The chip register address of a register identifier (R53). -/
def ridAddr (rid : Byte) : BitVec 7 := rid.extractLsb' 0 7

end Sys2Proof.Machine
end

