-- ==== Sys2Proof/Machine/RegisterMap.lean ====
section
/-! DEFINITION. The register map: descriptors, the default table, the well-formedness of a table,
look-up, field extraction and merge (spec/41_register_map.md R67 to R71). -/

namespace Sys2Proof.Machine

/-- The chip register address of a descriptor: `rid[6:0]` (R67). -/
def descAddr (D : Descriptor) : BitVec 7 := ridAddr D.rid

/-- The direction of a descriptor: `rid[7]` (R67). -/
def descWritable (D : Descriptor) : Bool := ridWritable D.rid

/-- The field's width: the number of set bits in the mask (R67). -/
def descWidth (D : Descriptor) : Nat := ((List.range 32).filter fun i => D.mask.getLsbD i).length

/-- The default `REG_TABLE` of this block (R68). -/
def defaultRegTable : List Descriptor :=
  [ ⟨0x00#8, .rGconf, 0xFFFFFFFF#32, 0, some .gconf⟩,
    ⟨0x41#8, .rSgResult, 0x000003FF#32, 0, none⟩,
    ⟨0x6C#8, .rChopconf, 0x0F000000#32, 24, some .chopconf⟩,
    ⟨0x80#8, .wGconf, 0xFFFFFFFF#32, 0, some .gconf⟩,
    ⟨0x83#8, .wNodeconf, 0xFFFFFFFF#32, 0, some .nodeconf⟩,
    ⟨0xA2#8, .wVactual, 0x00FFFFFF#32, 0, none⟩,
    ⟨0xEC#8, .wChopconf, 0x0F000000#32, 24, some .chopconf⟩ ]

/-! ### R69: well-formed tables -/

/-- Condition 1: each `rid` occurs at most once. -/
def ridsOnce (t : List Descriptor) : Bool := decide (t.map (·.rid)).Nodup

/-- Conditions 2 and 3: the mask is not 0, its set bits are contiguous, and `shift` is the lowest.
(Condition 4 holds of every `Descriptor`: an address has 7 bits.) -/
def maskOk (D : Descriptor) : Bool :=
  D.mask != 0 &&
    (List.range 32).all fun i =>
      D.mask.getLsbD i == (decide (D.shift.val ≤ i) && decide (i < D.shift.val + descWidth D))

/-- Condition 5 for one shadow: at most one readable and at most one writable descriptor, of one
address and one mask when both exist. -/
def shadowOk (t : List Descriptor) (sh : Shadow) : Bool :=
  let rs := t.filter fun D => D.shadow == some sh && !descWritable D
  let ws := t.filter fun D => D.shadow == some sh && descWritable D
  decide (rs.length ≤ 1) && decide (ws.length ≤ 1) &&
    rs.all fun r => ws.all fun w => descAddr r == descAddr w && r.mask == w.mask

/-- Condition 6: exactly one `W_VACTUAL`, writable, with no shadow, `shift = 0` and
`mask = 2^VACTUAL_WIDTH - 1`. -/
def vactualOk (t : List Descriptor) (width : Nat) : Bool :=
  match t.filter fun D => D.name == .wVactual with
  | [D] => descWritable D && D.shadow == none && D.shift == 0 && D.mask.toNat == 2 ^ width - 1
  | _ => false

/-- Condition 7: exactly one `W_CHOPCONF`, writable, with shadow `CHOPCONF` and a field of at least
4 bits. -/
def chopconfOk (t : List Descriptor) : Bool :=
  match t.filter fun D => D.name == .wChopconf with
  | [D] => descWritable D && D.shadow == some .chopconf && decide (4 ≤ descWidth D)
  | _ => false

/-- The seven conditions of R69. -/
def tableOk (t : List Descriptor) (vactualWidth : Nat) : Bool :=
  ridsOnce t && t.all maskOk && shadowOk t .gconf && shadowOk t .nodeconf && shadowOk t .chopconf &&
    vactualOk t vactualWidth && chopconfOk t

/-! ### Look-up -/

/-- The descriptor with `rid = R` (R72). -/
def lookupRid (t : List Descriptor) (rid : Byte) : Option Descriptor := t.find? fun D => D.rid == rid

/-- The descriptor of a readable rid: none where `R[7] = 1` or the table has no `R` (R53). -/
def readable? (t : List Descriptor) (rid : Byte) : Option Descriptor :=
  if ridWritable rid then none else lookupRid t rid

/-- The descriptor of a writable rid: none where `R[7] = 0` or the table has no `R` (R53). -/
def writable? (t : List Descriptor) (rid : Byte) : Option Descriptor :=
  if ridWritable rid then lookupRid t rid else none

/-- The descriptor of a name (R69 conditions 6 and 7). Those conditions make `W_VACTUAL` and
`W_CHOPCONF` unique. The spec does not say which descriptor another name stands for where a table
holds it twice: here it is the first of the list (DESIGN CHOICE, entry 14). -/
def lookupName (t : List Descriptor) (name : RegName) : Option Descriptor :=
  t.find? fun D => D.name == name

/-! ### Field extraction and merge -/

/-- `extract(raw, D)` (R70). -/
def extract (raw : Word) (D : Descriptor) : Word := (raw &&& D.mask) >>> D.shift.val

/-- `place(v, D)` (R71). -/
def place (v : Word) (D : Descriptor) : Word := (v <<< D.shift.val) &&& D.mask

/-- `merge(old, v, D)` (R71). -/
def merge (old v : Word) (D : Descriptor) : Word := (old &&& ~~~D.mask) ||| place v D

end Sys2Proof.Machine
end

