-- ==== Sys2Proof/Machine/Datagram.lean ====
section
/-! DEFINITION. The datagram codec: the builders and the reply parser (spec/30_encoding.md R55 to
R57, spec/42_datagram_codec.md R74, R76, R78). -/

namespace Sys2Proof.Machine

/-- The eight bytes before the CRC of a write datagram (R55). -/
def writeBody (node : BitVec 2) (reg : BitVec 7) (data : Word) : List Byte :=
  [0x05#8, 0x00#8, node.setWidth 8, reg.setWidth 8 ||| 0x80#8] ++ be32 data

/-- The four bytes before the CRC of a read request (R56). -/
def readBody (node : BitVec 2) (reg : BitVec 7) : List Byte :=
  [0x05#8, 0x00#8, node.setWidth 8, reg.setWidth 8 &&& 0x7F#8]

/-- A body followed by its CRC (R80). -/
def sealed (P : Params) (body : List Byte) : List Byte := body ++ [crc8 P.crcVariant body]

/-- `build_write(node, D, data)` (R74). -/
def buildWrite (P : Params) (node : BitVec 2) (D : Descriptor) (data : Word) : List Byte :=
  sealed P (writeBody node (descAddr D) data)

/-- `build_read(node, D)` (R76). -/
def buildRead (P : Params) (node : BitVec 2) (D : Descriptor) : List Byte :=
  sealed P (readBody node (descAddr D))

/-- `parse(p)` (R78): the node echo, the register echo and the payload; none is `ChecksumError`. -/
def parse (P : Params) (p : List Byte) : Option (Byte × Byte × Word) :=
  let l := P.replyLayout
  if p.getD (l.len - 1) 0 = crc8 P.crcVariant (p.take (l.len - 1)) then
    some (p.getD l.addrOff 0, p.getD l.regOff 0,
      unbe32 (p.getD l.dataOff 0) (p.getD (l.dataOff + 1) 0) (p.getD (l.dataOff + 2) 0)
        (p.getD (l.dataOff + 3) 0))
  else none

end Sys2Proof.Machine
end

