-- ==== Sys2Proof/Machine/Flags.lean ====
section
/-! DEFINITION. The block has no flags (spec/10_state.md R25): its one condition output is the status
code in the first byte of a response (spec/60_exceptions.md R99). -/

namespace Sys2Proof.Machine

/-- The eight statuses of R99. -/
inductive Status where
  | ok
  | checksumError
  | ioTimeoutError
  | invalidState
  | outOfRange
  | unsupported
  | illegalCommand
  | invalidArgument
  deriving DecidableEq, Repr

/-- The status codes of R99. -/
def Status.code : Status → Byte
  | .ok => 0x00#8
  | .checksumError => 0x01#8
  | .ioTimeoutError => 0x02#8
  | .invalidState => 0x03#8
  | .outOfRange => 0x04#8
  | .unsupported => 0x05#8
  | .illegalCommand => 0x06#8
  | .invalidArgument => 0x07#8

end Sys2Proof.Machine
end

