-- ==== Sys2Proof/Machine/Parameters.lean ====
section
/-! DEFINITION. The parameters of spec/00_scope.md R7: their legal values, and the values of this
block. -/

namespace Sys2Proof.Machine

/-- `COMPACT7` (spec/30_encoding.md R58). -/
def compact7 : ReplyLayout := ⟨7, 0, 1, 2⟩

/-- `ECHO9` (R58). -/
def echo9 : ReplyLayout := ⟨9, 2, 3, 4⟩

/-- `TMC8` (R58). -/
def tmc8 : ReplyLayout := ⟨8, 1, 2, 3⟩

/-- The integer value of `DIRECTION_SIGN`. -/
def signValue : DirectionSign → Int
  | .plus => 1
  | .minus => -1

/-- The legal values of `REPLY_LAYOUT` (R7): `len` in 7..255, the three fields inside bytes
`0 .. len-2`, not overlapping. -/
def layoutOk (l : ReplyLayout) : Bool :=
  decide (7 ≤ l.len) && decide (l.len ≤ 255) &&
    decide (l.addrOff ≤ l.len - 2) && decide (l.regOff ≤ l.len - 2) &&
    decide (l.dataOff + 3 ≤ l.len - 2) && decide (l.addrOff ≠ l.regOff) &&
    (decide (l.addrOff < l.dataOff) || decide (l.dataOff + 3 < l.addrOff)) &&
    (decide (l.regOff < l.dataOff) || decide (l.dataOff + 3 < l.regOff))

/-- The legal values of all eight parameters (R7, R69). -/
def paramsOk (P : Params) : Bool :=
  layoutOk P.replyLayout && tableOk P.regTable P.vactualWidth &&
    decide (1000000 ≤ P.fClk) && decide (P.fClk ≤ 4294967295) &&
    decide (2 ≤ P.vactualWidth) && decide (P.vactualWidth ≤ 32)

/-- The values of this block (R7). -/
def blockParams : Params where
  crcVariant := .refl8C
  replyLayout := compact7
  regTable := defaultRegTable
  fClk := 12000000
  vactualWidth := 24
  directionSign := .plus
  rxTimeout := Config.rxTimeout
  pulseRate := Config.pulseRate

end Sys2Proof.Machine
end

