-- ==== Sys2Proof/Syntax.lean ====
section
/-! DEFINITION. The instructions: the twelve commands of spec/30_encoding.md R47, R48 and the three
datagram formats of R55, R56, R57, one constructor per row of spec/opcode_table.json; and the packets
they are encoded in. -/

namespace Sys2Proof

/-- One constructor per row of spec/opcode_table.json. Operands stand as the frame gives them: the
checks of spec/60_exceptions.md R101 on them are the command's own. -/
inductive Instr where
  /-- INIT `node byte, steps`. -/
  | init (node : Byte) (steps : BitVec 16)
  /-- CALC_CRC `bytes`; the count byte is the number of bytes. -/
  | calcCrc (data : List Byte)
  /-- MASK_FOR `rid`. -/
  | maskFor (rid : Byte)
  /-- BUILD_WRITE `node byte, rid, data`. -/
  | buildWrite (node : Byte) (rid : Byte) (data : Word)
  /-- BUILD_READ `node byte, rid`. -/
  | buildRead (node : Byte) (rid : Byte)
  /-- PARSE_REPLY `reply bytes`. -/
  | parseReply (reply : List Byte)
  /-- READ_ACCESS `rid`. -/
  | readAccess (rid : Byte)
  /-- WRITE_ACCESS `rid, field value`. -/
  | writeAccess (rid : Byte) (value : Word)
  /-- SET_SPEED `rpm`, the 32 bits of a signed Q16.16. -/
  | setSpeed (rpm : Word)
  /-- SET_ANGLE `angle`, UQ16.16 degrees. -/
  | setAngle (angle : Word)
  /-- SET_MICROSTEP `microstep code byte`. -/
  | setMicrostep (code : Byte)
  /-- SET_ENABLE `any byte`. -/
  | setEnable (e : Byte)
  /-- The write datagram (R55). -/
  | dgramWrite (node : BitVec 2) (reg : BitVec 7) (data : Word) (crc : Byte)
  /-- The read-request datagram (R56). -/
  | dgramReadRequest (node : BitVec 2) (reg : BitVec 7) (crc : Byte)
  /-- The read-reply datagram (R57), all its bytes. -/
  | dgramReadReply (reply : List Byte)
  deriving DecidableEq, Repr

/-- The twelve opcodes of the command map (R47). -/
inductive Opcode where
  | init
  | calcCrc
  | maskFor
  | buildWrite
  | buildRead
  | parseReply
  | readAccess
  | writeAccess
  | setSpeed
  | setAngle
  | setMicrostep
  | setEnable
  deriving DecidableEq, Repr

/-- An encoded instruction, as the host gives it: a command frame (R46), or, beside the frames, a
datagram for the codec alone (R55, R56, R57; DESIGN CHOICE, entry 4). None of them is what the UART
line carries: that is `Input.line`. -/
inductive Packet where
  | command (frame : List Byte)
  /-- A datagram the host asks to be transmitted: a write or a read request. -/
  | toSend (datagram : List Byte)
  /-- A read reply the host asks to be parsed. -/
  | toParse (datagram : List Byte)
  deriving DecidableEq, Repr

/-- What reaches the block between two commands: a packet from the host, the external reset event of
spec/70_reset_and_hazards.md R113 (entry 3), or bytes the UART line carries outside a `Receive`
(spec/60_exceptions.md R104). The timer reports nothing (R104), so there is no input of it. -/
inductive Input where
  | packet (p : Packet)
  | reset
  | line (bytes : List Byte)
  deriving DecidableEq, Repr

end Sys2Proof
end

