-- ==== Sys2Proof/Machine/State.lean ====
section
/-! DEFINITION. The state: the device handle (spec/10_state.md R15), and the environment's side of a
run (entries 1, 7, 9). -/

namespace Sys2Proof.Machine

/-- `HS` (R15, R16): one bit, 0 is Uninitialized and 1 is Ready. -/
inductive HandleState where
  | uninitialized
  | ready
  deriving DecidableEq, Repr

/-- The device handle (R15). -/
structure Handle where
  hs : HandleState
  nodeAddr : BitVec 2
  engineSteps : BitVec 16
  microstep : BitVec 4
  clockConst : BitVec 48
  shadowGconf : Word
  shadowNodeconf : Word
  shadowChopconf : Word
  deriving DecidableEq, Repr

/-- What the environment sees: the collaborator events of spec/00_scope.md R11, and response frames
(spec/30_encoding.md R51). -/
inductive Event where
  | transmit (bytes : List Byte)
  | receive (n : Nat) (timeout : Nat)
  | timerStart (count : Word) (rate : Word)
  | timerStop
  | respond (frame : List Byte)
  deriving DecidableEq, Repr

/-- Why the machine stops with a fault: never. "No behaviour of the block is `stuck`: every command
ends with a response" (spec/93_implementation_defined.md), so the type has no constructor. -/
inductive Fault where
  deriving DecidableEq, Repr

/-- Why a step is refused. -/
inductive Refusal where
  /-- An arm of `exec` with no meaning yet. Safe: the run stops there. No arm raises it. -/
  | notModelled (mnemonic : String)
  deriving DecidableEq, Repr

end Sys2Proof.Machine

namespace Sys2Proof.Machine

/-- The machine's state. `handle` is the spec's; the other fields are the model's, and hold what the
environment has put before the block and what it has seen. -/
structure State where
  /-- The device handle (R15). -/
  handle : Handle
  /-- The inputs waiting for the block, the next one first (entry 1). -/
  inbox : List Input
  /-- The UART's answers to the next `Transmit`s (R107, entry 7). -/
  txAnswers : List TxAnswer
  /-- The UART's answers to the next `Receive`s (R107, entry 7). -/
  rxAnswers : List RxAnswer
  /-- How many `Transmit`s were performed: the free answer's argument (entry 7). -/
  txCount : Nat
  /-- How many `Receive`s were performed: the free answer's argument (entry 7). -/
  rxCount : Nat
  /-- What the environment has seen, oldest first (entry 9). No command reads it. -/
  trace : List Event
  deriving DecidableEq, Repr

/-- The handle after reset: `HS = 0` (R28, R113). The other fields are unspecified, and 0 here
(DESIGN CHOICE, entry 2; R114 allows any value). -/
def Handle.reset : Handle where
  hs := .uninitialized
  nodeAddr := 0
  engineSteps := 0
  microstep := 0
  clockConst := 0
  shadowGconf := 0
  shadowNodeconf := 0
  shadowChopconf := 0

/-- The machine right after reset: no input waits, no answer is scripted, nothing was seen. -/
def State.reset : State where
  handle := Handle.reset
  inbox := []
  txAnswers := []
  rxAnswers := []
  txCount := 0
  rxCount := 0
  trace := []

end Sys2Proof.Machine
end

