-- ==== Sys2Proof/Machine/Ops.lean ====
section
/-! DEFINITION. The shared operations: the primitives of spec/00_scope.md R11 (`H.F <- v`,
`Transmit`, `Receive`, `TimerStart`, `TimerStop`, `raise`, `return`) over the state. -/

namespace Sys2Proof.Machine

/-- The outcome of a step of this machine. -/
abbrev Out := Host.Outcome State Fault Refusal

/-- `e` is seen by the environment. -/
def State.emit (e : Event) (s : State) : State := { s with trace := s.trace ++ [e] }

/-- The state with another handle: `H.F <- v` (R11). -/
def State.setHandle (h : Handle) (s : State) : State := { s with handle := h }

/-- `HS = 0` (R16). -/
def State.notReady (s : State) : Bool := decide (s.handle.hs = .uninitialized)

/-! ### Ending a command -/

/-- `raise E` (R12, R100): the response is `[code(E)]`, no handle field is written, the events
already performed stay performed, and the block is ready for the next command. The next command frame
is the return from the exception: there is no other. -/
def State.raise (e : Status) (s : State) : Out := .next (s.emit (.respond [e.code]))

/-- `return (p1, ...)` (R11, R51): status OK and the results. -/
def State.answer (payload : List Byte) (s : State) : Out :=
  .next (s.emit (.respond (Status.ok.code :: payload)))

/-! ### The UART collaborator (R107) -/

/-- What the next `Transmit` answers: the scripted answer, or a free one (entry 7). -/
def State.txAnswer (s : State) : TxAnswer := s.txAnswers.headD (Config.txAnswer s.txCount)

/-- `Transmit(bytes)` is performed and answered. -/
def State.transmit (bytes : List Byte) (s : State) : State :=
  { s with
    txAnswers := s.txAnswers.tail
    txCount := s.txCount + 1
    trace := s.trace ++ [.transmit bytes] }

/-- Exactly `n` bytes: those of `bs`, then the free bytes of the line at the `k`-th `Receive`
(R107, entry 8). -/
def lineBytes (k n : Nat) (bs : List Byte) : List Byte :=
  (bs ++ (List.range n).map (Config.lineByte k)).take n

/-- What the next `Receive(n, t)` answers: exactly `n` bytes, or none for `IoError` (R107). -/
def State.rxAnswer (n : Nat) (s : State) : Option (List Byte) :=
  match s.rxAnswers.headD (Config.rxAnswer s.rxCount) with
  | .ioError => none
  | .bytes bs => some (lineBytes s.rxCount n bs)

/-- `Receive(n, t)` is performed and answered. -/
def State.receive (n t : Nat) (s : State) : State :=
  { s with
    rxAnswers := s.rxAnswers.tail
    rxCount := s.rxCount + 1
    trace := s.trace ++ [.receive n t] }

/-! ### The timer collaborator (R108) -/

/-- `TimerStart(count, rate)`: seen by the timer, returns nothing. -/
def State.timerStart (count rate : Word) (s : State) : State := s.emit (.timerStart count rate)

/-- `TimerStop()`: seen by the timer, returns nothing. -/
def State.timerStop (s : State) : State := s.emit .timerStop

/-! ### Shadows (R21) -/

/-- `H.SHADOW_<sh>`. -/
def Handle.shadow (sh : Shadow) (h : Handle) : Word :=
  match sh with
  | .gconf => h.shadowGconf
  | .nodeconf => h.shadowNodeconf
  | .chopconf => h.shadowChopconf

/-- `H.SHADOW_<sh> <- v`. -/
def Handle.setShadow (sh : Shadow) (v : Word) (h : Handle) : Handle :=
  match sh with
  | .gconf => { h with shadowGconf := v }
  | .nodeconf => { h with shadowNodeconf := v }
  | .chopconf => { h with shadowChopconf := v }

/-- `if D.shadow != NONE then H.SHADOW_<D.shadow> <- v` (R83, R85). -/
def State.setShadowOf (D : Descriptor) (v : Word) (s : State) : State :=
  match D.shadow with
  | none => s
  | some sh => s.setHandle (s.handle.setShadow sh v)

/-- The register value a field write sends: merged into the attached shadow, or placed alone where
none is attached (R71, R84). -/
def State.mergedValue (D : Descriptor) (v : Word) (s : State) : Word :=
  match D.shadow with
  | none => place v D
  | some sh => merge (s.handle.shadow sh) v D

end Sys2Proof.Machine
end

