-- ==== Sys2Proof/Machine/AccessUnit.lean ====
section
/-! DEFINITION. The register-access transactions (spec/43_register_access.md R82 to R87). -/

namespace Sys2Proof.Machine

/-- READ_ACCESS (R82, R83, R86, R87). -/
def readAccessWith (P : Params) (rid : Byte) (s : State) : Out :=
  if s.notReady then s.raise .invalidState
  else match readable? P.regTable rid with
    | none => s.raise .invalidArgument
    | some D =>
      let q := buildRead P s.handle.nodeAddr D
      let s1 := s.transmit q
      match s.txAnswer with
      | .ioError => s1.raise .ioTimeoutError
      | .ok =>
        let s2 := s1.receive P.replyLayout.len P.rxTimeout
        match s1.rxAnswer P.replyLayout.len with
        | none => s2.raise .ioTimeoutError
        | some y =>
          match parse P y with
          | none => s2.raise .checksumError
          | some (_, _, d) => (s2.setShadowOf D d).answer (be32 (extract d D) ++ y ++ q)

/-- READ_ACCESS on this block. -/
def execReadAccess (rid : Byte) (s : State) : Out := readAccessWith blockParams rid s

/-- WRITE_ACCESS (R84, R85, R86). -/
def writeAccessWith (P : Params) (rid : Byte) (value : Word) (s : State) : Out :=
  if s.notReady then s.raise .invalidState
  else match writable? P.regTable rid with
    | none => s.raise .invalidArgument
    | some D =>
      let full := s.mergedValue D value
      let w := buildWrite P s.handle.nodeAddr D full
      let s1 := s.transmit w
      match s.txAnswer with
      | .ioError => s1.raise .ioTimeoutError
      | .ok => (s1.setShadowOf D full).answer w

/-- WRITE_ACCESS on this block. -/
def execWriteAccess (rid : Byte) (value : Word) (s : State) : Out :=
  writeAccessWith blockParams rid value s

end Sys2Proof.Machine
end

