-- ==== Sys2Proof/Machine/CodecUnit.lean ====
section
/-! DEFINITION. The codec commands (spec/42_datagram_codec.md R75, R77, R79) and the three datagrams
run on their own (entry 4). -/

namespace Sys2Proof.Machine

/-- BUILD_WRITE (R75). -/
def buildWriteWith (P : Params) (node rid : Byte) (data : Word) (s : State) : Out :=
  match nodeOf? node with
  | none => s.raise .invalidArgument
  | some n =>
    match writable? P.regTable rid with
    | none => s.raise .invalidArgument
    | some D => s.answer (buildWrite P n D data)

/-- BUILD_WRITE on this block. -/
def execBuildWrite (node rid : Byte) (data : Word) (s : State) : Out :=
  buildWriteWith blockParams node rid data s

/-- BUILD_READ (R77). -/
def buildReadWith (P : Params) (node rid : Byte) (s : State) : Out :=
  match nodeOf? node with
  | none => s.raise .invalidArgument
  | some n =>
    match readable? P.regTable rid with
    | none => s.raise .invalidArgument
    | some D => s.answer (buildRead P n D)

/-- BUILD_READ on this block. -/
def execBuildRead (node rid : Byte) (s : State) : Out := buildReadWith blockParams node rid s

/-- A reply is parsed and its fields are returned, or `ChecksumError` is raised (R78, R79). -/
def State.finishReply (P : Params) (p : List Byte) (s : State) : Out :=
  match parse P p with
  | none => s.raise .checksumError
  | some (a, r, d) => s.answer (a :: r :: be32 d)

/-- PARSE_REPLY (R79). A term with another number of bytes is no frame: its length is wrong. -/
def parseReplyWith (P : Params) (p : List Byte) (s : State) : Out :=
  if p.length ≠ P.replyLayout.len then s.raise .illegalCommand else s.finishReply P p

/-- PARSE_REPLY on this block. -/
def execParseReply (p : List Byte) (s : State) : Out := parseReplyWith blockParams p s

/-- DGRAM_WRITE on its own (R74, R80, R122; entry 4): its `Transmit`, which is not acknowledged. A
datagram whose last byte is not its CRC is not transmitted (entry 5). `REG_TABLE` is not consulted: an
address with no writable descriptor, for which every command raises `InvalidArgument`
(spec/20_memory.md R39, spec/60_exceptions.md R101), is transmitted here (DESIGN CHOICE, entry 21). -/
def dgramWriteWith (P : Params) (node : BitVec 2) (reg : BitVec 7) (data : Word) (crc : Byte)
    (s : State) : Out :=
  let w := writeBody node reg data
  if crc ≠ crc8 P.crcVariant w then s.raise .checksumError
  else match s.txAnswer with
    | .ioError => (s.transmit (w ++ [crc])).raise .ioTimeoutError
    | .ok => .next (s.transmit (w ++ [crc]))

/-- DGRAM_WRITE on this block. -/
def execDgramWrite (node : BitVec 2) (reg : BitVec 7) (data : Word) (crc : Byte) (s : State) : Out :=
  dgramWriteWith blockParams node reg data crc s

/-- DGRAM_READ_REQUEST on its own (R76, R78, R80; entry 4): its `Transmit`, the `Receive` of the
reply, and the parse of the reply. A datagram whose last byte is not its CRC is not transmitted
(entry 5). `REG_TABLE` is not consulted: an address with no readable descriptor, for which every
command raises `InvalidArgument` (spec/20_memory.md R39, spec/60_exceptions.md R101), is transmitted
here (DESIGN CHOICE, entry 21). -/
def dgramReadRequestWith (P : Params) (node : BitVec 2) (reg : BitVec 7) (crc : Byte)
    (s : State) : Out :=
  let q := readBody node reg
  if crc ≠ crc8 P.crcVariant q then s.raise .checksumError
  else match s.txAnswer with
    | .ioError => (s.transmit (q ++ [crc])).raise .ioTimeoutError
    | .ok =>
      let s1 := s.transmit (q ++ [crc])
      let s2 := s1.receive P.replyLayout.len P.rxTimeout
      match s1.rxAnswer P.replyLayout.len with
      | none => s2.raise .ioTimeoutError
      | some y => s2.finishReply P y

/-- DGRAM_READ_REQUEST on this block. -/
def execDgramReadRequest (node : BitVec 2) (reg : BitVec 7) (crc : Byte) (s : State) : Out :=
  dgramReadRequestWith blockParams node reg crc s

/-- DGRAM_READ_REPLY on its own (R78; entry 4): the reply the host gives is parsed. No reply has
another length (spec/60_exceptions.md R107): a term of one does nothing (entries 6 and 18). -/
def dgramReadReplyWith (P : Params) (p : List Byte) (s : State) : Out :=
  if p.length ≠ P.replyLayout.len then .next s else s.finishReply P p

/-- DGRAM_READ_REPLY on this block. -/
def execDgramReadReply (p : List Byte) (s : State) : Out := dgramReadReplyWith blockParams p s

end Sys2Proof.Machine
end

