-- ==== Sys2Proof/Machine/CrcUnit.lean ====
section
/-! DEFINITION. The CRC command (spec/40_crc.md R64). -/

namespace Sys2Proof.Machine

/-- CALC_CRC (R64). -/
def calcCrcWith (P : Params) (d : List Byte) (s : State) : Out :=
  if d.length = 0 then s.raise .invalidArgument else s.answer [crc8 P.crcVariant d]

/-- CALC_CRC on this block. -/
def execCalcCrc (d : List Byte) (s : State) : Out := calcCrcWith blockParams d s

end Sys2Proof.Machine
end

