-- ==== Sys2Proof/Machine/Convert.lean ====
section
/-! DEFINITION. The fixed-point converters: rounding (spec/00_scope.md R13), the microstep multiplier
and the clock constant (spec/10_state.md R19, spec/44_device_handle.md R89), velocity and step count
(spec/45_motion.md R93, R95). All arithmetic is exact. -/

namespace Sys2Proof.Machine

/-- `round_half_up(a, b)` (R13). -/
def roundHalfUp (a b : Nat) : Nat := (a + b / 2) / b

/-- `round_half_away(a, b)` (R13). -/
def roundHalfAway (a : Int) (b : Nat) : Int := a.sign * (((a.natAbs + b / 2) / b : Nat) : Int)

/-- `mult(m) = 1 << (8 - m)` for the codes 0..8 (R19). A code above 8 never occurs; here it gives 1
(DESIGN CHOICE, entry 13). -/
def mult (m : Nat) : Nat := 1 <<< (8 - m)

/-- `cc(steps, m)` as an integer (R89). -/
def clockConstNat (P : Params) (steps : BitVec 16) (m : Nat) : Nat :=
  roundHalfUp (steps.toNat * mult m * 2 ^ 40) (60 * P.fClk)

/-- `cc(steps, m)` in the 48-bit field (R89). -/
def clockConstOf (P : Params) (steps : BitVec 16) (m : Nat) : BitVec 48 :=
  BitVec.ofNat 48 (clockConstNat P steps m)

/-- `velocity(rpm_q, cc_q)`; none is `OutOfRange` (R93). -/
def velocity (P : Params) (rpm : Int) (cc : Nat) : Option Int :=
  let v := roundHalfAway (rpm * cc * signValue P.directionSign) (2 ^ 32)
  if v < -(2 ^ (P.vactualWidth - 1)) ∨ v > 2 ^ (P.vactualWidth - 1) - 1 then none else some v

/-- `angle_steps(angle_q, steps, m)` (R95). -/
def angleSteps (angle steps m : Nat) : Nat :=
  let T := steps * mult m
  let A := angle % (360 * 2 ^ 16)
  let c := roundHalfUp (A * T) (360 * 2 ^ 16)
  if c = T then 0 else c

end Sys2Proof.Machine
end

