-- ==== Sys2Proof/Machine/HandleUnit.lean ====
section
/-! DEFINITION. The device handle's commands (spec/44_device_handle.md R88 to R91). -/

namespace Sys2Proof.Machine

/-- The handle after INIT (R90). -/
def Handle.initialised (P : Params) (node : BitVec 2) (steps : BitVec 16) : Handle where
  hs := .ready
  nodeAddr := node
  engineSteps := steps
  microstep := 8
  clockConst := clockConstOf P steps 8
  shadowGconf := 0
  shadowNodeconf := 0
  shadowChopconf := 0

/-- INIT (R90): accepted in either handle state. -/
def initWith (P : Params) (node : Byte) (steps : BitVec 16) (s : State) : Out :=
  match nodeOf? node with
  | none => s.raise .invalidArgument
  | some n => (s.setHandle (Handle.initialised P n steps)).answer []

/-- INIT on this block. -/
def execInit (node : Byte) (steps : BitVec 16) (s : State) : Out := initWith blockParams node steps s

/-- The handle after SET_MICROSTEP has sent `full` (R91). -/
def Handle.withMicrostep (P : Params) (full : Word) (m : Byte) (h : Handle) : Handle :=
  { h with
    shadowChopconf := full
    microstep := m.setWidth 4
    clockConst := clockConstOf P h.engineSteps m.toNat }

/-- SET_MICROSTEP (R91). A well-formed table has its descriptor (R69 condition 7); where a table had
none, the rid look-ups' InvalidArgument is raised (entry 17). -/
def setMicrostepWith (P : Params) (m : Byte) (s : State) : Out :=
  if s.notReady then s.raise .invalidState
  else if m.toNat > 8 then s.raise .invalidArgument
  else match lookupName P.regTable .wChopconf with
    | none => s.raise .invalidArgument
    | some D =>
      let full := merge s.handle.shadowChopconf (m.setWidth 32) D
      let w := buildWrite P s.handle.nodeAddr D full
      let s1 := s.transmit w
      match s.txAnswer with
      | .ioError => s1.raise .ioTimeoutError
      | .ok => (s1.setHandle (s1.handle.withMicrostep P full m)).answer w

/-- SET_MICROSTEP on this block. -/
def execSetMicrostep (m : Byte) (s : State) : Out := setMicrostepWith blockParams m s

end Sys2Proof.Machine
end

