-- ==== Sys2Proof/Machine/MapUnit.lean ====
section
/-! DEFINITION. The register-map command (spec/41_register_map.md R72). -/

namespace Sys2Proof.Machine

/-- MASK_FOR (R72). -/
def maskForWith (P : Params) (rid : Byte) (s : State) : Out :=
  match readable? P.regTable rid with
  | none => s.raise .invalidArgument
  | some D => s.answer (be32 D.mask ++ [BitVec.ofNat 8 D.shift.val])

/-- MASK_FOR on this block. -/
def execMaskFor (rid : Byte) (s : State) : Out := maskForWith blockParams rid s

end Sys2Proof.Machine
end

