-- ==== Sys2Proof/Machine/MotionUnit.lean ====
section
/-! DEFINITION. The motion commands (spec/45_motion.md R93 to R98). -/

namespace Sys2Proof.Machine

/-- SET_SPEED (R94). A well-formed table has its descriptor (R69 condition 6); where a table had
none, the rid look-ups' InvalidArgument is raised (entry 17). -/
def setSpeedWith (P : Params) (rpm : Word) (s : State) : Out :=
  if s.notReady then s.raise .invalidState
  else match velocity P rpm.toInt s.handle.clockConst.toNat with
    | none => s.raise .outOfRange
    | some v =>
      match lookupName P.regTable .wVactual with
      | none => s.raise .invalidArgument
      | some D =>
        let w := buildWrite P s.handle.nodeAddr D (place (BitVec.ofInt 32 v) D)
        let s1 := s.transmit w
        match s.txAnswer with
        | .ioError => s1.raise .ioTimeoutError
        | .ok => s1.answer w

/-- SET_SPEED on this block. -/
def execSetSpeed (rpm : Word) (s : State) : Out := setSpeedWith blockParams rpm s

/-- SET_ANGLE (R96). -/
def setAngleWith (P : Params) (angle : Word) (s : State) : Out :=
  if s.notReady then s.raise .invalidState
  else
    let c := angleSteps angle.toNat s.handle.engineSteps.toNat s.handle.microstep.toNat
    let count : Word := BitVec.ofNat 32 c
    if c > 0 then (s.timerStart count P.pulseRate).answer (be32 count)
    else s.timerStop.answer (be32 count)

/-- SET_ANGLE on this block. -/
def execSetAngle (angle : Word) (s : State) : Out := setAngleWith blockParams angle s

/-- SET_ENABLE (R98): always `Unsupported`; the operand is ignored. -/
def execSetEnable (_e : Byte) (s : State) : Out := s.raise .unsupported

end Sys2Proof.Machine
end

