-- ==== Sys2Proof/Machine/Dispatch.lean ====
section
/-! DEFINITION. One meaning per instruction. -/

namespace Sys2Proof.Machine

def exec (i : Instr) (s : State) : Host.Outcome State Fault Refusal :=
  match i with
  | .init node steps => Sys2Proof.Machine.execInit node steps s
  | .calcCrc data => Sys2Proof.Machine.execCalcCrc data s
  | .maskFor rid => Sys2Proof.Machine.execMaskFor rid s
  | .buildWrite node rid data => Sys2Proof.Machine.execBuildWrite node rid data s
  | .buildRead node rid => Sys2Proof.Machine.execBuildRead node rid s
  | .parseReply reply => Sys2Proof.Machine.execParseReply reply s
  | .readAccess rid => Sys2Proof.Machine.execReadAccess rid s
  | .writeAccess rid value => Sys2Proof.Machine.execWriteAccess rid value s
  | .setSpeed rpm => Sys2Proof.Machine.execSetSpeed rpm s
  | .setAngle angle => Sys2Proof.Machine.execSetAngle angle s
  | .setMicrostep code => Sys2Proof.Machine.execSetMicrostep code s
  | .setEnable e => Sys2Proof.Machine.execSetEnable e s
  | .dgramWrite node reg data crc => Sys2Proof.Machine.execDgramWrite node reg data crc s
  | .dgramReadRequest node reg crc => Sys2Proof.Machine.execDgramReadRequest node reg crc s
  | .dgramReadReply reply => Sys2Proof.Machine.execDgramReadReply reply s

end Sys2Proof.Machine
end

