-- ==== Sys2Proof/WellFormed.lean ====
section
/-! DEFINITION. Which terms of Instr an encoding exists for: the count of CALC_CRC is one byte
(spec/30_encoding.md R48), a reply has `REPLY_LAYOUT.len` bytes (R57), and a datagram the block sends
ends with its CRC (spec/42_datagram_codec.md R80). -/

namespace Sys2Proof

/-- Well-formedness for given parameters. -/
def Instr.wfWith (P : Params) : Instr → Bool
  | .init _ _ => true
  | .calcCrc d => decide (d.length ≤ 255)
  | .maskFor _ => true
  | .buildWrite _ _ _ => true
  | .buildRead _ _ => true
  | .parseReply p => decide (p.length = P.replyLayout.len)
  | .readAccess _ => true
  | .writeAccess _ _ => true
  | .setSpeed _ => true
  | .setAngle _ => true
  | .setMicrostep _ => true
  | .setEnable _ => true
  | .dgramWrite n r d c => c == Machine.crc8 P.crcVariant (Machine.writeBody n r d)
  | .dgramReadRequest n r c => c == Machine.crc8 P.crcVariant (Machine.readBody n r)
  | .dgramReadReply p => decide (p.length = P.replyLayout.len)

/-- Well-formedness for this block. -/
def Instr.wf (i : Instr) : Bool := i.wfWith Machine.blockParams

end Sys2Proof
end

