-- ==== Sys2Proof/Decode.lean ====
section
/-! DEFINITION. The decoder of packets, total on any bytes and rejecting by name, and the encoder
(spec/30_encoding.md R46 to R60). A frame is decoded completely before any part of its command is
performed (R46). -/

namespace Sys2Proof

/-- Why a packet is no instruction. The first four are the cases of R49; the last two are of
datagrams, which no command frame is. -/
inductive DecodeError where
  | emptyFrame
  | reservedOpcode (op : Byte)
  | missingCount
  | wrongLength
  | notSendable
  | notParsable
  deriving DecidableEq, Repr

/-- The opcode map (R47). -/
def opcodeMap : List (Byte × Opcode) :=
  [ (0x01#8, .init), (0x02#8, .calcCrc), (0x03#8, .maskFor), (0x04#8, .buildWrite),
    (0x05#8, .buildRead), (0x06#8, .parseReply), (0x07#8, .readAccess), (0x08#8, .writeAccess),
    (0x09#8, .setSpeed), (0x0A#8, .setAngle), (0x0B#8, .setMicrostep), (0x0C#8, .setEnable) ]

/-- The opcode of a byte; none where it is reserved (R50). -/
def opcodeOf? (b : Byte) : Option Opcode := (opcodeMap.find? fun e => e.1 == b).map Prod.snd

/-- The byte of an opcode (R47). -/
def opcodeByte : Opcode → Byte
  | .init => 0x01#8
  | .calcCrc => 0x02#8
  | .maskFor => 0x03#8
  | .buildWrite => 0x04#8
  | .buildRead => 0x05#8
  | .parseReply => 0x06#8
  | .readAccess => 0x07#8
  | .writeAccess => 0x08#8
  | .setSpeed => 0x09#8
  | .setAngle => 0x0A#8
  | .setMicrostep => 0x0B#8
  | .setEnable => 0x0C#8

/-- The frame length an opcode requires; `n` is the byte after the opcode, which only CALC_CRC
reads (R48, R60). -/
def requiredLength (P : Params) (o : Opcode) (n : Byte) : Nat :=
  match o with
  | .init => 4
  | .calcCrc => 2 + n.toNat
  | .maskFor => 2
  | .buildWrite => 7
  | .buildRead => 3
  | .parseReply => 1 + P.replyLayout.len
  | .readAccess => 2
  | .writeAccess => 6
  | .setSpeed => 5
  | .setAngle => 5
  | .setMicrostep => 2
  | .setEnable => 2

/-- The operands after an opcode (R48, R59). -/
def decodeOperands (P : Params) (o : Opcode) (args : List Byte) : Except DecodeError Instr :=
  match o with
  | .init => match args with
    | [n, s1, s0] => .ok (.init n (Machine.unbe16 s1 s0))
    | _ => .error .wrongLength
  | .calcCrc => match args with
    | [] => .error .missingCount
    | n :: d => if d.length = n.toNat then .ok (.calcCrc d) else .error .wrongLength
  | .maskFor => match args with
    | [r] => .ok (.maskFor r)
    | _ => .error .wrongLength
  | .buildWrite => match args with
    | [n, r, d3, d2, d1, d0] => .ok (.buildWrite n r (Machine.unbe32 d3 d2 d1 d0))
    | _ => .error .wrongLength
  | .buildRead => match args with
    | [n, r] => .ok (.buildRead n r)
    | _ => .error .wrongLength
  | .parseReply =>
    if args.length = P.replyLayout.len then .ok (.parseReply args) else .error .wrongLength
  | .readAccess => match args with
    | [r] => .ok (.readAccess r)
    | _ => .error .wrongLength
  | .writeAccess => match args with
    | [r, v3, v2, v1, v0] => .ok (.writeAccess r (Machine.unbe32 v3 v2 v1 v0))
    | _ => .error .wrongLength
  | .setSpeed => match args with
    | [q3, q2, q1, q0] => .ok (.setSpeed (Machine.unbe32 q3 q2 q1 q0))
    | _ => .error .wrongLength
  | .setAngle => match args with
    | [a3, a2, a1, a0] => .ok (.setAngle (Machine.unbe32 a3 a2 a1 a0))
    | _ => .error .wrongLength
  | .setMicrostep => match args with
    | [m] => .ok (.setMicrostep m)
    | _ => .error .wrongLength
  | .setEnable => match args with
    | [e] => .ok (.setEnable e)
    | _ => .error .wrongLength

/-- A command frame (R46 to R50). -/
def decodeFrame (P : Params) (frame : List Byte) : Except DecodeError Instr :=
  match frame with
  | [] => .error .emptyFrame
  | op :: args => match opcodeOf? op with
    | none => .error (.reservedOpcode op)
    | some o => decodeOperands P o args

/-- A datagram to be transmitted: a write (R55) or a read request (R56). -/
def decodeToSend (b : List Byte) : Except DecodeError Instr :=
  match b with
  | [sync, rsv, n, r, d3, d2, d1, d0, c] =>
    if sync = 0x05#8 ∧ rsv = 0x00#8 ∧ n.extractLsb' 2 6 = 0 ∧ r.getLsbD 7 = true then
      .ok (.dgramWrite (n.extractLsb' 0 2) (r.extractLsb' 0 7) (Machine.unbe32 d3 d2 d1 d0) c)
    else .error .notSendable
  | [sync, rsv, n, r, c] =>
    if sync = 0x05#8 ∧ rsv = 0x00#8 ∧ n.extractLsb' 2 6 = 0 ∧ r.getLsbD 7 = false then
      .ok (.dgramReadRequest (n.extractLsb' 0 2) (r.extractLsb' 0 7) c)
    else .error .notSendable
  | _ => .error .notSendable

/-- A datagram to be parsed: any `REPLY_LAYOUT.len` bytes, since a reply has no fixed bits (R57). -/
def decodeToParse (P : Params) (b : List Byte) : Except DecodeError Instr :=
  if b.length = P.replyLayout.len then .ok (.dgramReadReply b) else .error .notParsable

/-- The instruction of a packet. -/
def decodePacket (P : Params) (p : Packet) : Except DecodeError Instr :=
  match p with
  | .command f => decodeFrame P f
  | .toSend b => decodeToSend b
  | .toParse b => decodeToParse P b

/-- The instruction of a packet, for this block. -/
def decode (p : Packet) : Except DecodeError Instr := decodePacket Machine.blockParams p

/-! ### The encoder -/

/-- The bytes of an instruction (R47, R48, R55, R56, R57). -/
def encodeBytes (i : Instr) : List Byte :=
  match i with
  | .init n steps => opcodeByte .init :: n :: Machine.be16 steps
  | .calcCrc d => opcodeByte .calcCrc :: BitVec.ofNat 8 d.length :: d
  | .maskFor r => [opcodeByte .maskFor, r]
  | .buildWrite n r d => opcodeByte .buildWrite :: n :: r :: Machine.be32 d
  | .buildRead n r => [opcodeByte .buildRead, n, r]
  | .parseReply p => opcodeByte .parseReply :: p
  | .readAccess r => [opcodeByte .readAccess, r]
  | .writeAccess r v => opcodeByte .writeAccess :: r :: Machine.be32 v
  | .setSpeed q => opcodeByte .setSpeed :: Machine.be32 q
  | .setAngle a => opcodeByte .setAngle :: Machine.be32 a
  | .setMicrostep m => [opcodeByte .setMicrostep, m]
  | .setEnable e => [opcodeByte .setEnable, e]
  | .dgramWrite n r d c => Machine.writeBody n r d ++ [c]
  | .dgramReadRequest n r c => Machine.readBody n r ++ [c]
  | .dgramReadReply p => p

/-- The packet of an instruction: a command's frame, or a datagram for the codec alone (entry 4). -/
def encode (i : Instr) : Packet :=
  match i with
  | .dgramWrite _ _ _ _ => .toSend (encodeBytes i)
  | .dgramReadRequest _ _ _ => .toSend (encodeBytes i)
  | .dgramReadReply _ => .toParse (encodeBytes i)
  | .init _ _ => .command (encodeBytes i)
  | .calcCrc _ => .command (encodeBytes i)
  | .maskFor _ => .command (encodeBytes i)
  | .buildWrite _ _ _ => .command (encodeBytes i)
  | .buildRead _ _ => .command (encodeBytes i)
  | .parseReply _ => .command (encodeBytes i)
  | .readAccess _ => .command (encodeBytes i)
  | .writeAccess _ _ => .command (encodeBytes i)
  | .setSpeed _ => .command (encodeBytes i)
  | .setAngle _ => .command (encodeBytes i)
  | .setMicrostep _ => .command (encodeBytes i)
  | .setEnable _ => .command (encodeBytes i)

/-! ### Words of the opcode table (entry 19) -/

/-- The bytes of an `nbits`-bit word whose byte 0 is the first byte. -/
def tableBytes (nbits w : Nat) : List Byte :=
  (List.range (nbits / 8)).map fun k => BitVec.ofNat 8 (w >>> (8 * k))

/-- `b` followed by zero bytes up to length `n`. -/
def padTo (n : Nat) (b : List Byte) : List Byte := b ++ List.replicate (n - b.length) 0#8

/-- The packet of bytes that are too long for the command their first byte names, or name none: a
datagram where they have the form of one. -/
def tableDatagram (P : Params) (b : List Byte) : Packet :=
  let isOut := decide (b[0]? = some 0x05#8 ∧ b[1]? = some 0x00#8 ∧ 4 ≤ b.length)
  if isOut && (b.getD 3 0).getLsbD 7 && decide (b.length ≤ 9) then .toSend (padTo 9 b)
  else if isOut && !(b.getD 3 0).getLsbD 7 && decide (b.length ≤ 5) then .toSend (padTo 5 b)
  else if b.length = P.replyLayout.len then .toParse b
  else .command b

/-- The packet of a word of the opcode table: every bit above `nbits` is 0, up to the length the
instruction requires. -/
def tablePacket (nbits w : Nat) : Packet :=
  let b := tableBytes nbits w
  match opcodeOf? (b.getD 0 0) with
  | none => tableDatagram Machine.blockParams b
  | some o =>
    let len := requiredLength Machine.blockParams o (b.getD 1 0)
    if b.length ≤ len then .command (padTo len b) else tableDatagram Machine.blockParams b

/-- The instruction the decoder reads from an `nbits`-bit word of the opcode table. -/
def decodeTableWord (nbits w : Nat) : Option Instr :=
  match decode (tablePacket nbits w) with
  | .ok i => some i
  | .error _ => none

end Sys2Proof
end

