-- ==== Sys2Proof/Machine/Fetch.lean ====
section
/-! DEFINITION. Taking the next input (spec/00_scope.md R6, spec/20_memory.md R41): one step consumes
one command frame. The block fetches no instructions of its own (spec/10_state.md R24). -/

namespace Sys2Proof.Machine

/-- The state whose next input has been taken. -/
def State.dropInput (s : State) : State := { s with inbox := s.inbox.tail }

/-- Reset (R113): the handle is as after reset, with no event and no response, and no pending
command is lost. -/
def State.applyReset (s : State) : State := s.setHandle Handle.reset

/-- A packet that decodes to no instruction: a command frame raises `IllegalCommand`
(spec/30_encoding.md R49); bytes given as a datagram that have not the form of one do nothing
(DESIGN CHOICE, entry 6). -/
def State.rejectPacket (p : Packet) (s : State) : Out :=
  match p with
  | .command _ => s.raise .illegalCommand
  | .toSend _ => .next s
  | .toParse _ => .next s

/-- One step, with `run` for the meaning of an instruction. With no input the block waits
(R100: "The block then waits for the next command frame"). Bytes the UART line carries outside a
`Receive` are not seen: they start nothing and are kept nowhere (R104). -/
def stepVia (P : Params) (run : Instr → State → Out) (s : State) : Out :=
  match s.inbox with
  | [] => .next s
  | .reset :: _ => .next s.dropInput.applyReset
  | .line _ :: _ => .next s.dropInput
  | .packet p :: _ =>
    match decodePacket P p with
    | .error _ => s.dropInput.rejectPacket p
    | .ok i => run i s.dropInput

end Sys2Proof.Machine
end

