-- ==== Sys2Proof/Machine/Step.lean ====
section
/-! DEFINITION. The step of this block, and the place of the next instruction. -/

namespace Sys2Proof.Machine

/-- One step: the next input is taken and run. -/
def step (s : State) : Host.Outcome State Fault Refusal := stepVia blockParams exec s

/-- `s` with a word of the opcode table as its next input (entry 19). -/
def State.withFetchWord (s : State) (nbits w : Nat) : State :=
  { s with inbox := .packet (tablePacket nbits w) :: s.inbox }

end Sys2Proof.Machine
end

