-- ==== Sys2Proof/Machine/Assembler.lean ====
section
/-! DEFINITION. The assembler syntax and the pseudo-commands (spec/30_encoding.md R61, R62). A line is
a list of characters. What R61 leaves open of the text is fixed here (DESIGN CHOICE, entry 20): blanks
are space characters, words are as R61 spells them, the bytes of a bracketed list are hexadecimal
(spec/95_test_vectors.md: "Bytes are hexadecimal"), and a register identifier written as a byte value
is a decimal or `0x` hexadecimal integer. -/

namespace Sys2Proof.Machine

/-- The text without the spaces at its ends. -/
def trimBlanks (cs : List Char) : List Char :=
  ((cs.dropWhile (· == ' ')).reverse.dropWhile (· == ' ')).reverse

/-- The text cut at each `sep`. -/
def splitAtChar (sep : Char) : List Char → List (List Char)
  | [] => [[]]
  | c :: cs =>
    match splitAtChar sep cs with
    | [] => [[c]]
    | w :: ws => if c = sep then [] :: w :: ws else (c :: w) :: ws

/-- The value of a digit, below 16. -/
def digitValue? (c : Char) : Option Nat :=
  if 48 ≤ c.toNat ∧ c.toNat ≤ 57 then some (c.toNat - 48)
  else if 65 ≤ c.toNat ∧ c.toNat ≤ 70 then some (c.toNat - 55)
  else if 97 ≤ c.toNat ∧ c.toNat ≤ 102 then some (c.toNat - 87)
  else none

/-- The number the digits write after the value `acc`. -/
def digitsFrom? (base acc : Nat) : List Char → Option Nat
  | [] => some acc
  | c :: cs =>
    match digitValue? c with
    | none => none
    | some d => if d < base then digitsFrom? base (acc * base + d) cs else none

/-- A non-empty run of digits. -/
def digits? (base : Nat) (cs : List Char) : Option Nat :=
  if cs.isEmpty then none else digitsFrom? base 0 cs

/-- A decimal or `0x` hexadecimal integer (R61). -/
def integer? (cs : List Char) : Option Nat :=
  match cs with
  | '0' :: 'x' :: ds => digits? 16 ds
  | ds => digits? 10 ds

/-- An integer that an operand of `n` bits holds. -/
def operand? (n : Nat) (cs : List Char) : Option (BitVec n) :=
  match integer? (trimBlanks cs) with
  | none => none
  | some v => if v < 2 ^ n then some (BitVec.ofNat n v) else none

/-- A byte of a bracketed list. -/
def listByte? (cs : List Char) : Option Byte :=
  let ds := match trimBlanks cs with
    | '0' :: 'x' :: ds => ds
    | ds => ds
  match digits? 16 ds with
  | none => none
  | some v => if v < 256 then some (BitVec.ofNat 8 v) else none

/-- The bytes of `[b0, b1, ...]`. -/
def byteList? (cs : List Char) : Option (List Byte) :=
  match trimBlanks cs with
  | '[' :: rest =>
    match rest.reverse with
    | ']' :: body =>
      if (trimBlanks body).isEmpty then some []
      else (splitAtChar ',' body.reverse).mapM listByte?
    | _ => none
  | _ => none

/-- The names of R68 in text. -/
def regNameTexts : List (List Char × RegName) :=
  [ ("R_GCONF".toList, .rGconf), ("R_SG_RESULT".toList, .rSgResult),
    ("R_CHOPCONF".toList, .rChopconf), ("W_GCONF".toList, .wGconf),
    ("W_NODECONF".toList, .wNodeconf), ("W_VACTUAL".toList, .wVactual),
    ("W_CHOPCONF".toList, .wChopconf) ]

/-- A register identifier: a byte value, or the name of a descriptor of the table (R61). R61 gives the
byte value no number form: here it is decimal, or hexadecimal after `0x`, as R61 has it for `node` and
the other integers (DESIGN CHOICE, entry 20). A name the table holds twice is its first descriptor's
(DESIGN CHOICE, entry 14). -/
def ridOperand? (P : Params) (cs : List Char) : Option Byte :=
  match regNameTexts.find? fun e => e.1 == trimBlanks cs with
  | some (_, name) => (lookupName P.regTable name).map (·.rid)
  | none => operand? 8 cs

/-- A decimal number with a sign: its value is `mantissa / 10^places`. -/
structure Decimal where
  mantissa : Int
  places : Nat
  deriving DecidableEq, Repr

/-- A decimal number, which may be negative and may have a fraction (R61). -/
def decimal? (cs : List Char) : Option Decimal :=
  let (neg, body) := match cs with
    | '-' :: ds => (true, ds)
    | ds => (false, ds)
  let signed := fun (n : Nat) => if neg then -(n : Int) else (n : Int)
  match splitAtChar '.' body with
  | [whole] => (digits? 10 whole).map fun n => ⟨signed n, 0⟩
  | [whole, frac] =>
    match digits? 10 whole, digits? 10 frac with
    | some _, some _ => (digits? 10 (whole ++ frac)).map fun n => ⟨signed n, frac.length⟩
    | _, _ => none
  | _ => none

/-- The value times 2^16, where it is an integer between `lo` and `hi`: the assembler never rounds
(R61). -/
def scaled? (lo hi : Int) (d : Decimal) : Option Int :=
  let p : Int := d.mantissa * 2 ^ 16
  let ten : Int := 10 ^ d.places
  if p % ten = 0 then
    let q := p / ten
    if lo ≤ q ∧ q ≤ hi then some q else none
  else none

/-- The raw operand word of `rpm#0xHHHHHHHH` or `angle#0xHHHHHHHH`: eight digits after the mark. -/
def rawWord? (mark : List Char) (cs : List Char) : Option Word :=
  if mark.isPrefixOf cs ∧ (cs.drop mark.length).length = 8 then
    (digits? 16 (cs.drop mark.length)).map (BitVec.ofNat 32)
  else none

/-- `rpm_q = rpm * 2^16` (R61). -/
def rpmOperand? (cs : List Char) : Option Word :=
  let t := trimBlanks cs
  match rawWord? "rpm#0x".toList t with
  | some w => some w
  | none => ((decimal? t).bind (scaled? (-(2 ^ 31)) (2 ^ 31 - 1))).map (BitVec.ofInt 32)

/-- `angle_q = angle * 2^16` (R61). -/
def angleOperand? (cs : List Char) : Option Word :=
  let t := trimBlanks cs
  match rawWord? "angle#0x".toList t with
  | some w => some w
  | none => ((decimal? t).bind (scaled? 0 (2 ^ 32 - 1))).map (BitVec.ofInt 32)

/-- The words a line can begin with: the mnemonics of R61 and the pseudo-commands of R62. -/
inductive AsmWord where
  | command (o : Opcode)
  | stopVelocity
  | readMres
  | readSg
  | refresh
  deriving DecidableEq, Repr

/-- Their spelling. -/
def asmWords : List (List Char × AsmWord) :=
  [ ("INIT".toList, .command .init), ("CALC_CRC".toList, .command .calcCrc),
    ("MASK_FOR".toList, .command .maskFor), ("BUILD_WRITE".toList, .command .buildWrite),
    ("BUILD_READ".toList, .command .buildRead), ("PARSE_REPLY".toList, .command .parseReply),
    ("READ_ACCESS".toList, .command .readAccess), ("WRITE_ACCESS".toList, .command .writeAccess),
    ("SET_SPEED".toList, .command .setSpeed), ("SET_ANGLE".toList, .command .setAngle),
    ("SET_MICROSTEP".toList, .command .setMicrostep), ("SET_ENABLE".toList, .command .setEnable),
    ("STOP_VELOCITY".toList, .stopVelocity), ("READ_MRES".toList, .readMres),
    ("READ_SG".toList, .readSg), ("REFRESH".toList, .refresh) ]

/-- READ_ACCESS of a named descriptor of the table. -/
def readNamed? (P : Params) (name : RegName) : Option Instr :=
  (lookupName P.regTable name).map fun D => .readAccess D.rid

/-- The command of a word and its operand text (R61, R62). -/
def assembleWord (P : Params) (w : AsmWord) (text : List Char) : Option Instr :=
  let ops := splitAtChar ',' text
  match w with
  | .command .init => match ops with
    | [n, s] => (operand? 8 n).bind fun n => (operand? 16 s).map fun s => .init n s
    | _ => none
  | .command .calcCrc => (byteList? text).map .calcCrc
  | .command .maskFor => (ridOperand? P text).map .maskFor
  | .command .buildWrite => match ops with
    | [n, r, d] => (operand? 8 n).bind fun n => (ridOperand? P r).bind fun r =>
        (operand? 32 d).map fun d => .buildWrite n r d
    | _ => none
  | .command .buildRead => match ops with
    | [n, r] => (operand? 8 n).bind fun n => (ridOperand? P r).map fun r => .buildRead n r
    | _ => none
  | .command .parseReply => (byteList? text).map .parseReply
  | .command .readAccess => (ridOperand? P text).map .readAccess
  | .command .writeAccess => match ops with
    | [r, v] => (ridOperand? P r).bind fun r => (operand? 32 v).map fun v => .writeAccess r v
    | _ => none
  | .command .setSpeed => (rpmOperand? text).map .setSpeed
  | .command .setAngle => (angleOperand? text).map .setAngle
  | .command .setMicrostep => (operand? 8 text).map .setMicrostep
  | .command .setEnable => (operand? 8 text).map .setEnable
  | .stopVelocity => if (trimBlanks text).isEmpty then some (.setSpeed 0) else none
  | .readMres => if (trimBlanks text).isEmpty then readNamed? P .rChopconf else none
  | .readSg => if (trimBlanks text).isEmpty then readNamed? P .rSgResult else none
  | .refresh => (ridOperand? P text).map .readAccess

/-- The command of a line: mnemonic first, operands separated by commas (R61). A line whose command
no frame can hold is refused. -/
def assembleLine (P : Params) (line : List Char) : Option Instr :=
  let t := trimBlanks line
  let word := t.takeWhile (· != ' ')
  match asmWords.find? fun e => e.1 == word with
  | none => none
  | some (_, w) =>
    match assembleWord P w (t.drop word.length) with
    | none => none
    | some i => if i.wfWith P then some i else none

end Sys2Proof.Machine
end

