-- ==== Sys2Proof/Machine/Instantiate.lean ====
section
/-! DEFINITION. The machine for other parameter values (spec/00_scope.md R7: "unless the model is
instantiated otherwise"), and the refusal of ill-formed ones (spec/41_register_map.md R69). -/

namespace Sys2Proof.Machine

/-- The meaning of an instruction for given parameters. -/
def execWith (P : Params) (i : Instr) (s : State) : Out :=
  match i with
  | .init node steps => initWith P node steps s
  | .calcCrc data => calcCrcWith P data s
  | .maskFor rid => maskForWith P rid s
  | .buildWrite node rid data => buildWriteWith P node rid data s
  | .buildRead node rid => buildReadWith P node rid s
  | .parseReply reply => parseReplyWith P reply s
  | .readAccess rid => readAccessWith P rid s
  | .writeAccess rid value => writeAccessWith P rid value s
  | .setSpeed rpm => setSpeedWith P rpm s
  | .setAngle angle => setAngleWith P angle s
  | .setMicrostep code => setMicrostepWith P code s
  | .setEnable e => execSetEnable e s
  | .dgramWrite node reg data crc => dgramWriteWith P node reg data crc s
  | .dgramReadRequest node reg crc => dgramReadRequestWith P node reg crc s
  | .dgramReadReply reply => dgramReadReplyWith P reply s

/-- One step for given parameters. -/
def stepWith (P : Params) (s : State) : Out := stepVia P (execWith P) s

/-- The machine of given parameters: none where they are not legal (R69: "the table is refused, not
partly used"). -/
def machineOf (P : Params) : Option Host.Core :=
  if paramsOk P then
    some { State := State, Fault := Fault, Refusal := Refusal, step := stepWith P, reset := State.reset }
  else none

end Sys2Proof.Machine
end

