-- ==== Sys2Proof/Safety.lean ====
section
/-! DEFINITION. What a safe run is, in the terms the statements use: the handle's invariant
(spec/10_state.md R19, R20), what every event looks like (spec/42_datagram_codec.md R80,
spec/60_exceptions.md R99, R107, R108), which status a command can report (R101), and which states a
run cannot tell apart (spec/70_reset_and_hazards.md R114). -/

namespace Sys2Proof.Machine

/-- In Ready the microstep code is in 0..8 (R19) and the clock constant is that of the handle's
steps and code (R20). -/
abbrev Handle.Inv (P : Params) (h : Handle) : Prop :=
  h.hs = .ready →
    h.microstep.toNat ≤ 8 ∧ h.clockConst = clockConstOf P h.engineSteps h.microstep.toNat

/-- A transmitted datagram: 9 bytes with the write flag or 5 without it, sync and reserved bytes in
front, a node in 0..3, and the CRC of all its preceding bytes at its end (R55, R56, R80). -/
def transmitOk (P : Params) (b : List Byte) : Bool :=
  decide (b.length = if (b.getD 3 0).getLsbD 7 then 9 else 5) &&
    b.getD 0 0 == 0x05#8 && b.getD 1 0 == 0x00#8 && decide ((b.getD 2 0).toNat < 4) &&
    b.getD (b.length - 1) 0 == crc8 P.crcVariant (b.take (b.length - 1))

/-- A response frame: a status code of R99 in front, and nothing after an error code (R51). -/
def responseOk (p : List Byte) : Bool :=
  match p with
  | [] => false
  | c :: rest => decide (c.toNat ≤ 7) && (c == 0 || rest.isEmpty)

/-- What each event looks like (R51, R80, R107, R108). -/
def eventOk (P : Params) (e : Event) : Bool :=
  match e with
  | .transmit b => transmitOk P b
  | .receive n t => decide (n = P.replyLayout.len) && decide (t = P.rxTimeout)
  | .timerStart count rate =>
    decide (1 ≤ count.toNat) && decide (count.toNat < 2 ^ 24) && rate == P.pulseRate
  | .timerStop => true
  | .respond p => responseOk p

/-- Every event of the run so far is as it should be. -/
def State.traceOk (P : Params) (s : State) : Bool := s.trace.all (eventOk P)

/-- A safe state: the handle's invariant, and a run of well-formed events. -/
abbrev State.Safe (P : Params) (s : State) : Prop := s.handle.Inv P ∧ s.traceOk P = true

/-- The event is a response frame. -/
def isResponse (e : Event) : Bool :=
  match e with
  | .respond _ => true
  | _ => false

/-- The response `p` is the only new event. -/
def State.replied (p : List Byte) (s : State) : State := s.emit (.respond p)

/-- A command frame with this first byte and another length than `n` is refused: `IllegalCommand`,
and nothing else happens (spec/30_encoding.md R49). -/
def RefusesOtherLengths (op : Byte) (n : Nat) : Prop :=
  ∀ (s : State) (args : List Byte) (rest : List Input),
    s.inbox = .packet (.command (op :: args)) :: rest → args.length + 1 ≠ n →
    step s = .next (State.replied [0x06#8] { s with inbox := rest })

/-- The exceptions each command can raise (R101). A datagram run on its own is no command: what it
can raise is the model's (entries 4 and 5). -/
def mayRaise (i : Instr) : List Status :=
  match i with
  | .init _ _ => [.illegalCommand, .invalidArgument]
  | .calcCrc _ => [.illegalCommand, .invalidArgument]
  | .maskFor _ => [.illegalCommand, .invalidArgument]
  | .buildWrite _ _ _ => [.illegalCommand, .invalidArgument]
  | .buildRead _ _ => [.illegalCommand, .invalidArgument]
  | .parseReply _ => [.illegalCommand, .checksumError]
  | .readAccess _ =>
    [.illegalCommand, .invalidState, .invalidArgument, .ioTimeoutError, .checksumError]
  | .writeAccess _ _ => [.illegalCommand, .invalidState, .invalidArgument, .ioTimeoutError]
  | .setSpeed _ => [.illegalCommand, .invalidState, .outOfRange, .ioTimeoutError]
  | .setAngle _ => [.illegalCommand, .invalidState]
  | .setMicrostep _ => [.illegalCommand, .invalidState, .invalidArgument, .ioTimeoutError]
  | .setEnable _ => [.illegalCommand, .unsupported]
  | .dgramWrite _ _ _ _ => [.checksumError, .ioTimeoutError]
  | .dgramReadRequest _ _ _ => [.checksumError, .ioTimeoutError]
  | .dgramReadReply _ => [.checksumError]

/-- The commands that do not read `HS` (spec/10_state.md R16). -/
def isStateless (i : Instr) : Bool :=
  match i with
  | .calcCrc _ => true
  | .maskFor _ => true
  | .buildWrite _ _ _ => true
  | .buildRead _ _ => true
  | .parseReply _ => true
  | .setEnable _ => true
  | .init _ _ => false
  | .readAccess _ => false
  | .writeAccess _ _ => false
  | .setSpeed _ => false
  | .setAngle _ => false
  | .setMicrostep _ => false
  | .dgramWrite _ _ _ _ => false
  | .dgramReadRequest _ _ _ => false
  | .dgramReadReply _ => false

/-- The commands that need Ready (spec/10_state.md R16, spec/44_device_handle.md R88). -/
def needsReady (i : Instr) : Bool :=
  match i with
  | .readAccess _ => true
  | .writeAccess _ _ => true
  | .setSpeed _ => true
  | .setAngle _ => true
  | .setMicrostep _ => true
  | .init _ _ => false
  | .calcCrc _ => false
  | .maskFor _ => false
  | .buildWrite _ _ _ => false
  | .buildRead _ _ => false
  | .parseReply _ => false
  | .setEnable _ => false
  | .dgramWrite _ _ _ _ => false
  | .dgramReadRequest _ _ _ => false
  | .dgramReadReply _ => false

/-- The instructions that can perform a `Transmit`: they use up one of the UART's answers to it (the
rules of spec/43_register_access.md to spec/45_motion.md; for the datagrams, entry 4). -/
def transmits (i : Instr) : Bool :=
  match i with
  | .readAccess _ => true
  | .writeAccess _ _ => true
  | .setSpeed _ => true
  | .setMicrostep _ => true
  | .dgramWrite _ _ _ _ => true
  | .dgramReadRequest _ _ _ => true
  | .init _ _ => false
  | .calcCrc _ => false
  | .maskFor _ => false
  | .buildWrite _ _ _ => false
  | .buildRead _ _ => false
  | .parseReply _ => false
  | .setAngle _ => false
  | .setEnable _ => false
  | .dgramReadReply _ => false

/-- The instructions that can perform a `Receive` (spec/43_register_access.md R82; for the datagram,
entry 4). -/
def receives (i : Instr) : Bool :=
  match i with
  | .readAccess _ => true
  | .dgramReadRequest _ _ _ => true
  | .init _ _ => false
  | .calcCrc _ => false
  | .maskFor _ => false
  | .buildWrite _ _ _ => false
  | .buildRead _ _ => false
  | .parseReply _ => false
  | .writeAccess _ _ => false
  | .setSpeed _ => false
  | .setAngle _ => false
  | .setMicrostep _ => false
  | .setEnable _ => false
  | .dgramWrite _ _ _ _ => false
  | .dgramReadReply _ => false

/-- A transmitted datagram whose register byte is the identifier of a descriptor of the table
(spec/20_memory.md R39, spec/30_encoding.md R53); every other event. -/
def eventListed (P : Params) (e : Event) : Bool :=
  match e with
  | .transmit b => P.regTable.any fun D => D.rid == b.getD 3 0
  | .receive _ _ => true
  | .timerStart _ _ => true
  | .timerStop => true
  | .respond _ => true

/-- Two states that differ at most in the handle fields R114 calls unspecified: those other than
`HS`, in Uninitialized. -/
def State.Agree (s t : State) : Prop :=
  s.handle.hs = t.handle.hs ∧ (s.handle.hs = .ready → s.handle = t.handle) ∧
    t = { s with handle := t.handle }

/-- `b` with bit `k` of its byte `j` flipped. -/
def flipBit (b : List Byte) (j k : Nat) : List Byte := b.set j (b.getD j 0 ^^^ (1#8 <<< k))

/-- Byte by byte XOR of two sequences. -/
def xorBytes (a b : List Byte) : List Byte := List.zipWith (· ^^^ ·) a b

end Sys2Proof.Machine
end

