-- ==== Sys2Proof/Certificates/Slice0/Obligations.lean ====
section
/-! DEFINITION. The statements. Each docstring names what of spec/ it formalises. The statements of
the commands give whole response frames and datagrams byte by byte, and the end states by the shared
operations `transmit`, `receive`, `setHandle` and `replied`, which name every field they change: what
an equation does not name is unchanged. The block has no memory, so no frame speaks of one. -/

open Sys2Proof Sys2Proof.Machine

/-! ### Taking an input -/

/-- 00_scope.md R6, 20_memory.md R41: the next input is taken, and where it decodes to a well-formed
instruction, the step is that instruction's meaning on the remaining state. -/
def Obligations.StepRunsTheDecodedInstruction : Prop :=
  ∀ (s : State) (p : Packet) (rest : List Input) (i : Instr),
    s.inbox = .packet p :: rest → decode p = .ok i → i.wf = true →
    step s = exec i { s with inbox := rest }

/-- 30_encoding.md R49 with the lengths of R48 and the reserved opcodes of R50, written out: an empty
frame, a reserved opcode, a wrong length, and a CALC_CRC frame without or with a wrong count each
raise IllegalCommand in every state, and nothing else happens. -/
def Obligations.MalformedFramesRaiseIllegalCommand : Prop :=
  ∀ (s : State) (f : List Byte) (rest : List Input),
    s.inbox = .packet (.command f) :: rest →
    (f = [] ∨ f.head? = some 0x00#8 ∨ (∃ op args, f = op :: args ∧ 0x0D ≤ op.toNat) ∨
      (∃ op args len, f = op :: args ∧ f.length ≠ len ∧
        (op, len) ∈ [(0x01#8, 4), (0x03#8, 2), (0x04#8, 7), (0x05#8, 3), (0x06#8, 8), (0x07#8, 2),
          (0x08#8, 6), (0x09#8, 5), (0x0A#8, 5), (0x0B#8, 2), (0x0C#8, 2)]) ∨
      f = [0x02#8] ∨ (∃ n d, f = 0x02#8 :: n :: d ∧ d.length ≠ n.toNat)) →
    step s = .next (State.replied [0x06#8] { s with inbox := rest })

/-- 30_encoding.md R46, R48, R55 to R57, R59: the decoder reads back what the encoder writes, for
every instruction, every operand, and every parameter set. -/
def Obligations.DecodeInvertsEncode : Prop :=
  ∀ (P : Params) (i : Instr), i.wfWith P = true → decodePacket P (encode i) = .ok i

/-- 30_encoding.md R46 to R60: every packet that decodes is the encoding of what it decodes to, so no
two packets mean the same instruction and no bit of one is dropped. -/
def Obligations.EncodeInvertsDecode : Prop :=
  ∀ (P : Params) (p : Packet) (i : Instr), decodePacket P p = .ok i → encode i = p

/-- Sample words from 95_test_vectors.md, one of each family. -/
def Obligations.DecoderReadsTheSpecsWords : Prop :=
  decode (.command [0x01, 0x03, 0xFF, 0xFF]) = .ok (.init 3 0xFFFF) ∧
  decode (.command [0x02, 0x01, 0xFF]) = .ok (.calcCrc [0xFF]) ∧
  decode (.command [0x03, 0x6C]) = .ok (.maskFor 0x6C) ∧
  decode (.command [0x04, 0x01, 0xEC, 0x14, 0x00, 0x00, 0x53]) = .ok (.buildWrite 1 0xEC 0x14000053) ∧
  decode (.command [0x08, 0x80, 0x00, 0x00, 0x00, 0xC0]) = .ok (.writeAccess 0x80 0xC0) ∧
  decode (.command [0x09, 0x00, 0x3C, 0x00, 0x00]) = .ok (.setSpeed 0x003C0000) ∧
  decode (.command [0x0B, 0x04]) = .ok (.setMicrostep 4) ∧
  decode (.toSend [0x05, 0x00, 0x01, 0xEC, 0x14, 0x00, 0x00, 0x53, 0x95]) =
    .ok (.dgramWrite 1 0x6C 0x14000053 0x95) ∧
  decode (.toSend [0x05, 0x00, 0x03, 0x41, 0xCC]) = .ok (.dgramReadRequest 3 0x41 0xCC)

/-! ### The commands -/

/-- 40_crc.md R64: the operand is 0 to 255 bytes. -/
def Obligations.CalcCrcAnswersTheChecksum : Prop :=
  (∀ n d, d.length = n.toNat → decode (.command (0x02#8 :: n :: d)) = .ok (.calcCrc d)) ∧
  (∀ (s : State) (args : List Byte) (rest : List Input),
    s.inbox = .packet (.command (0x02#8 :: args)) :: rest →
    (∀ n d, args = n :: d → d.length ≠ n.toNat) →
    step s = .next (State.replied [0x06#8] { s with inbox := rest })) ∧
  (∀ s : State, exec (.calcCrc []) s = .next (s.replied [0x07#8])) ∧
  (∀ (s : State) (d : List Byte), d ≠ [] → d.length ≤ 255 →
    exec (.calcCrc d) s = .next (s.replied [0x00#8, crc8 .refl8C d]))

/-- 41_register_map.md R72 over the default table of R68: the three readable identifiers answer
their mask and shift, and every other identifier is an InvalidArgument. -/
def Obligations.MaskForAnswersMaskAndShift : Prop :=
  RefusesOtherLengths 0x03#8 2 ∧
  (∀ rid, decode (.command [0x03#8, rid]) = .ok (.maskFor rid)) ∧
  ∀ s : State,
    exec (.maskFor 0x00#8) s = .next (s.replied [0x00#8, 0xFF#8, 0xFF#8, 0xFF#8, 0xFF#8, 0x00#8]) ∧
    exec (.maskFor 0x41#8) s = .next (s.replied [0x00#8, 0x00#8, 0x00#8, 0x03#8, 0xFF#8, 0x00#8]) ∧
    exec (.maskFor 0x6C#8) s = .next (s.replied [0x00#8, 0x0F#8, 0x00#8, 0x00#8, 0x00#8, 0x18#8]) ∧
    ∀ rid, rid ≠ 0x00#8 → rid ≠ 0x41#8 → rid ≠ 0x6C#8 →
      exec (.maskFor rid) s = .next (s.replied [0x07#8])

/-- 42_datagram_codec.md R75 with R74 and R55: the register byte of the datagram is the identifier
itself, and the data goes in unmasked. -/
def Obligations.BuildWriteAnswersTheDatagram : Prop :=
  RefusesOtherLengths 0x04#8 7 ∧
  (∀ n r d3 d2 d1 d0, decode (.command [0x04#8, n, r, d3, d2, d1, d0]) =
    .ok (.buildWrite n r (unbe32 d3 d2 d1 d0))) ∧
  ∀ (s : State) (n r d3 d2 d1 d0 : Byte),
    if 4 ≤ n.toNat ∨ r ∉ [0x80#8, 0x83#8, 0xA2#8, 0xEC#8] then
      exec (.buildWrite n r (unbe32 d3 d2 d1 d0)) s = .next (s.replied [0x07#8])
    else
      exec (.buildWrite n r (unbe32 d3 d2 d1 d0)) s = .next (s.replied
        [0x00#8, 0x05#8, 0x00#8, n, r, d3, d2, d1, d0,
          crc8 .refl8C [0x05#8, 0x00#8, n, r, d3, d2, d1, d0]])

/-- 42_datagram_codec.md R77 with R76 and R56. -/
def Obligations.BuildReadAnswersTheRequest : Prop :=
  RefusesOtherLengths 0x05#8 3 ∧
  (∀ n r, decode (.command [0x05#8, n, r]) = .ok (.buildRead n r)) ∧
  ∀ (s : State) (n r : Byte),
    if 4 ≤ n.toNat ∨ r ∉ [0x00#8, 0x41#8, 0x6C#8] then
      exec (.buildRead n r) s = .next (s.replied [0x07#8])
    else
      exec (.buildRead n r) s = .next (s.replied
        [0x00#8, 0x05#8, 0x00#8, n, r, crc8 .refl8C [0x05#8, 0x00#8, n, r]])

/-- 42_datagram_codec.md R79 with R78 and the layout of R57: only the CRC is checked, and the echoes
come back as they are. -/
def Obligations.ParseReplyChecksAndDecodes : Prop :=
  RefusesOtherLengths 0x06#8 8 ∧
  (∀ p : List Byte, p.length = 7 → decode (.command (0x06#8 :: p)) = .ok (.parseReply p)) ∧
  ∀ (s : State) (a r d3 d2 d1 d0 c : Byte),
    if c = crc8 .refl8C [a, r, d3, d2, d1, d0] then
      exec (.parseReply [a, r, d3, d2, d1, d0, c]) s =
        .next (s.replied [0x00#8, a, r, d3, d2, d1, d0])
    else exec (.parseReply [a, r, d3, d2, d1, d0, c]) s = .next (s.replied [0x01#8])

/-- 43_register_access.md R82 with R83, R86, R87 over the default table: the request on the wire, the
reply, the field, and the one shadow that is refreshed; and every way the command raises, with the
events that stay performed. -/
def Obligations.ReadAccessReadsAField : Prop :=
  RefusesOtherLengths 0x07#8 2 ∧
  (∀ rid, decode (.command [0x07#8, rid]) = .ok (.readAccess rid)) ∧
  (∀ (s : State) (rid : Byte), s.handle.hs = .uninitialized →
    exec (.readAccess rid) s = .next (s.replied [0x03#8])) ∧
  (∀ (s : State) (rid : Byte), s.handle.hs = .ready → rid ∉ [0x00#8, 0x41#8, 0x6C#8] →
    exec (.readAccess rid) s = .next (s.replied [0x07#8])) ∧
  ∀ (s : State) (rid : Byte), s.handle.hs = .ready → rid ∈ [0x00#8, 0x41#8, 0x6C#8] →
    let node : Byte := s.handle.nodeAddr.setWidth 8
    let q : List Byte := [0x05#8, 0x00#8, node, rid, crc8 .refl8C [0x05#8, 0x00#8, node, rid]]
    let sent := s.transmit q
    let got := sent.receive 7 Config.rxTimeout
    (s.txAnswer = .ioError → exec (.readAccess rid) s = .next (sent.replied [0x02#8])) ∧
    (s.txAnswer = .ok → s.rxAnswer 7 = none →
      exec (.readAccess rid) s = .next (got.replied [0x02#8])) ∧
    (∀ a r d3 d2 d1 d0 c, s.txAnswer = .ok → s.rxAnswer 7 = some [a, r, d3, d2, d1, d0, c] →
      if c = crc8 .refl8C [a, r, d3, d2, d1, d0] then
        let d := unbe32 d3 d2 d1 d0
        let field := if rid = 0x41#8 then d &&& 0x3FF#32
          else if rid = 0x6C#8 then (d >>> 24) &&& 0xF#32 else d
        let h := if rid = 0x00#8 then { s.handle with shadowGconf := d }
          else if rid = 0x6C#8 then { s.handle with shadowChopconf := d } else s.handle
        exec (.readAccess rid) s = .next ((got.setHandle h).replied
          (0x00#8 :: (be32 field ++ [a, r, d3, d2, d1, d0, c] ++ q)))
      else exec (.readAccess rid) s = .next (got.replied [0x01#8]))

/-- 43_register_access.md R84 with R85, R86 over the default table: the merged value on the wire,
and the one shadow that is updated after a `Transmit` that answered Ok. -/
def Obligations.WriteAccessMergesAndSends : Prop :=
  RefusesOtherLengths 0x08#8 6 ∧
  (∀ rid v3 v2 v1 v0, decode (.command [0x08#8, rid, v3, v2, v1, v0]) =
    .ok (.writeAccess rid (unbe32 v3 v2 v1 v0))) ∧
  (∀ (s : State) (rid : Byte) (v : Word), s.handle.hs = .uninitialized →
    exec (.writeAccess rid v) s = .next (s.replied [0x03#8])) ∧
  (∀ (s : State) (rid : Byte) (v : Word), s.handle.hs = .ready →
    rid ∉ [0x80#8, 0x83#8, 0xA2#8, 0xEC#8] →
    exec (.writeAccess rid v) s = .next (s.replied [0x07#8])) ∧
  ∀ (s : State) (rid : Byte) (v : Word), s.handle.hs = .ready →
    rid ∈ [0x80#8, 0x83#8, 0xA2#8, 0xEC#8] →
    let full := if rid = 0xEC#8 then
        (s.handle.shadowChopconf &&& 0xF0FFFFFF#32) ||| ((v <<< 24) &&& 0x0F000000#32)
      else if rid = 0xA2#8 then v &&& 0x00FFFFFF#32 else v
    let body := [0x05#8, 0x00#8, s.handle.nodeAddr.setWidth 8, rid] ++ be32 full
    let w := body ++ [crc8 .refl8C body]
    let h := if rid = 0x80#8 then { s.handle with shadowGconf := full }
      else if rid = 0x83#8 then { s.handle with shadowNodeconf := full }
      else if rid = 0xEC#8 then { s.handle with shadowChopconf := full } else s.handle
    (s.txAnswer = .ioError →
      exec (.writeAccess rid v) s = .next ((s.transmit w).replied [0x02#8])) ∧
    (s.txAnswer = .ok →
      exec (.writeAccess rid v) s = .next (((s.transmit w).setHandle h).replied (0x00#8 :: w)))

/-- 44_device_handle.md R90 with R89: every handle field after INIT, in either handle state. -/
def Obligations.InitSetsEveryHandleField : Prop :=
  RefusesOtherLengths 0x01#8 4 ∧
  (∀ n s1 s0, decode (.command [0x01#8, n, s1, s0]) = .ok (.init n (unbe16 s1 s0))) ∧
  ∀ (s : State) (n : Byte) (steps : BitVec 16),
    if 4 ≤ n.toNat then exec (.init n steps) s = .next (s.replied [0x07#8])
    else
      let h : Handle :=
        { hs := .ready, nodeAddr := n.setWidth 2, engineSteps := steps, microstep := 8,
          clockConst := BitVec.ofNat 48
            ((steps.toNat * 2 ^ 40 + 30 * 12000000) / (60 * 12000000)),
          shadowGconf := 0, shadowNodeconf := 0, shadowChopconf := 0 }
      exec (.init n steps) s = .next ((s.setHandle h).replied [0x00#8])

/-- 44_device_handle.md R91 with R89: MRES through the CHOPCONF shadow, then the three fields. -/
def Obligations.SetMicrostepSendsMresAndUpdates : Prop :=
  RefusesOtherLengths 0x0B#8 2 ∧
  (∀ m, decode (.command [0x0B#8, m]) = .ok (.setMicrostep m)) ∧
  (∀ (s : State) (m : Byte), s.handle.hs = .uninitialized →
    exec (.setMicrostep m) s = .next (s.replied [0x03#8])) ∧
  (∀ (s : State) (m : Byte), s.handle.hs = .ready → 8 < m.toNat →
    exec (.setMicrostep m) s = .next (s.replied [0x07#8])) ∧
  ∀ (s : State) (m : Byte), s.handle.hs = .ready → m.toNat ≤ 8 →
    let full := (s.handle.shadowChopconf &&& 0xF0FFFFFF#32) ||| (m.setWidth 32 <<< 24)
    let body := [0x05#8, 0x00#8, s.handle.nodeAddr.setWidth 8, 0xEC#8] ++ be32 full
    let w := body ++ [crc8 .refl8C body]
    let h := { s.handle with
      shadowChopconf := full
      microstep := m.setWidth 4
      clockConst := BitVec.ofNat 48
        ((s.handle.engineSteps.toNat * 2 ^ (8 - m.toNat) * 2 ^ 40 + 30 * 12000000) /
          (60 * 12000000)) }
    (s.txAnswer = .ioError →
      exec (.setMicrostep m) s = .next ((s.transmit w).replied [0x02#8])) ∧
    (s.txAnswer = .ok →
      exec (.setMicrostep m) s = .next (((s.transmit w).setHandle h).replied (0x00#8 :: w)))

/-- 45_motion.md R94 with R93 and R13: the rounded product, its range, and the VACTUAL datagram. -/
def Obligations.SetSpeedSendsVactual : Prop :=
  RefusesOtherLengths 0x09#8 5 ∧
  (∀ q3 q2 q1 q0, decode (.command [0x09#8, q3, q2, q1, q0]) = .ok (.setSpeed (unbe32 q3 q2 q1 q0))) ∧
  (∀ (s : State) (rpm : Word), s.handle.hs = .uninitialized →
    exec (.setSpeed rpm) s = .next (s.replied [0x03#8])) ∧
  ∀ (s : State) (rpm : Word), s.handle.hs = .ready →
    let product : Int := rpm.toInt * s.handle.clockConst.toNat
    let v : Int := product.sign * (((product.natAbs + 2 ^ 31) / 2 ^ 32 : Nat) : Int)
    if v < -8388608 ∨ 8388607 < v then exec (.setSpeed rpm) s = .next (s.replied [0x04#8])
    else
      let body := [0x05#8, 0x00#8, s.handle.nodeAddr.setWidth 8, 0xA2#8] ++
        be32 (BitVec.ofInt 32 v &&& 0x00FFFFFF#32)
      let w := body ++ [crc8 .refl8C body]
      (s.txAnswer = .ioError →
        exec (.setSpeed rpm) s = .next ((s.transmit w).replied [0x02#8])) ∧
      (s.txAnswer = .ok → exec (.setSpeed rpm) s = .next ((s.transmit w).replied (0x00#8 :: w)))

/-- 45_motion.md R96 with R95 and R13: the step count and the timer event, for a legal microstep
code (10_state.md R19 says no other occurs in the field). -/
def Obligations.SetAngleStartsTheTimer : Prop :=
  RefusesOtherLengths 0x0A#8 5 ∧
  (∀ a3 a2 a1 a0, decode (.command [0x0A#8, a3, a2, a1, a0]) = .ok (.setAngle (unbe32 a3 a2 a1 a0))) ∧
  (∀ (s : State) (angle : Word), s.handle.hs = .uninitialized →
    exec (.setAngle angle) s = .next (s.replied [0x03#8])) ∧
  ∀ (s : State) (angle : Word), s.handle.hs = .ready → s.handle.microstep.toNat ≤ 8 →
    let turn := s.handle.engineSteps.toNat * 2 ^ (8 - s.handle.microstep.toNat)
    let rounded := ((angle.toNat % (360 * 2 ^ 16)) * turn + 180 * 2 ^ 16) / (360 * 2 ^ 16)
    let count := if rounded = turn then 0 else rounded
    if 0 < count then
      exec (.setAngle angle) s = .next
        ((s.timerStart (BitVec.ofNat 32 count) Config.pulseRate).replied
          (0x00#8 :: be32 (BitVec.ofNat 32 count)))
    else exec (.setAngle angle) s =
      .next (s.timerStop.replied [0x00#8, 0x00#8, 0x00#8, 0x00#8, 0x00#8])

/-- 45_motion.md R98. -/
def Obligations.SetEnableIsUnsupported : Prop :=
  RefusesOtherLengths 0x0C#8 2 ∧
  (∀ e, decode (.command [0x0C#8, e]) = .ok (.setEnable e)) ∧
  ∀ (s : State) (e : Byte), exec (.setEnable e) s = .next (s.replied [0x05#8])

/-! ### The datagrams on their own. That they are run so is the model's choice (log entries 4 and 5) -/

/-- The write datagram (30_encoding.md R55) run on its own: its `Transmit` alone, with no response
where it answers Ok, since a write is not acknowledged (70_reset_and_hazards.md R122). The model's
choice: log entries 4 and 5. -/
def Obligations.WriteDatagramIsTransmitted : Prop :=
  ∀ (s : State) (node : BitVec 2) (reg : BitVec 7) (data : Word) (crc : Byte),
    let body := [0x05#8, 0x00#8, node.setWidth 8, reg.setWidth 8 ||| 0x80#8] ++ be32 data
    let i := Instr.dgramWrite node reg data crc
    if crc = crc8 .refl8C body then
      (s.txAnswer = .ok → exec i s = .next (s.transmit (body ++ [crc]))) ∧
      (s.txAnswer = .ioError → exec i s = .next ((s.transmit (body ++ [crc])).replied [0x02#8]))
    else exec i s = .next (s.replied [0x01#8])

/-- The read request (30_encoding.md R56) run on its own: `Transmit`, `Receive`, and the parsed
reply. The model's choice: log entries 4 and 5. -/
def Obligations.ReadRequestBringsAReply : Prop :=
  ∀ (s : State) (node : BitVec 2) (reg : BitVec 7) (crc : Byte),
    let body := [0x05#8, 0x00#8, node.setWidth 8, reg.setWidth 8]
    let i := Instr.dgramReadRequest node reg crc
    let sent := s.transmit (body ++ [crc])
    let got := sent.receive 7 Config.rxTimeout
    if crc = crc8 .refl8C body then
      (s.txAnswer = .ioError → exec i s = .next (sent.replied [0x02#8])) ∧
      (s.txAnswer = .ok → s.rxAnswer 7 = none → exec i s = .next (got.replied [0x02#8])) ∧
      (∀ a r d3 d2 d1 d0 c, s.txAnswer = .ok → s.rxAnswer 7 = some [a, r, d3, d2, d1, d0, c] →
        if c = crc8 .refl8C [a, r, d3, d2, d1, d0] then
          exec i s = .next (got.replied [0x00#8, a, r, d3, d2, d1, d0])
        else exec i s = .next (got.replied [0x01#8]))
    else exec i s = .next (s.replied [0x01#8])

/-- The read reply (30_encoding.md R57, 42_datagram_codec.md R78) run on its own: its fields, or
ChecksumError. The model's choice: log entry 4. -/
def Obligations.ReadReplyIsParsed : Prop :=
  ∀ (s : State) (a r d3 d2 d1 d0 c : Byte),
    if c = crc8 .refl8C [a, r, d3, d2, d1, d0] then
      exec (.dgramReadReply [a, r, d3, d2, d1, d0, c]) s =
        .next (s.replied [0x00#8, a, r, d3, d2, d1, d0])
    else exec (.dgramReadReply [a, r, d3, d2, d1, d0, c]) s = .next (s.replied [0x01#8])

/-- READ_ACCESS and WRITE_ACCESS perform exactly the collaborator events of their datagrams
(43_register_access.md R82, R84), and nothing else towards the UART. The datagrams run on their own
are the model's choice: log entry 4. -/
def Obligations.AccessesPerformTheirDatagrams : Prop :=
  (∀ (s t u : State) (rid : Byte) (D : Descriptor), s.handle.hs = .ready →
    readable? blockParams.regTable rid = some D →
    exec (.readAccess rid) s = .next t →
    exec (.dgramReadRequest s.handle.nodeAddr (descAddr D)
      (crc8 .refl8C (readBody s.handle.nodeAddr (descAddr D)))) s = .next u →
    t.trace.filter (fun e => !isResponse e) = u.trace.filter (fun e => !isResponse e) ∧
      t.txAnswers = u.txAnswers ∧ t.rxAnswers = u.rxAnswers) ∧
  (∀ (s t u : State) (rid : Byte) (v : Word) (D : Descriptor), s.handle.hs = .ready →
    writable? blockParams.regTable rid = some D →
    exec (.writeAccess rid v) s = .next t →
    exec (.dgramWrite s.handle.nodeAddr (descAddr D) (s.mergedValue D v)
      (crc8 .refl8C (writeBody s.handle.nodeAddr (descAddr D) (s.mergedValue D v)))) s = .next u →
    t.trace.filter (fun e => !isResponse e) = u.trace.filter (fun e => !isResponse e) ∧
      t.txAnswers = u.txAnswers ∧ t.rxAnswers = u.rxAnswers)

/-! ### The functional units -/

/-- 40_crc.md section 3 (the spec marks the property as derived there): a sequence followed by its
CRC has CRC 0 for the two right-shift variants, and not for the left-shift one. -/
def Obligations.CrcSelfCheckYieldsZero : Prop :=
  (∀ (v : CrcVariant) (s : List Byte), v = .refl8C ∨ v = .reflE0 → crc8 v (s ++ [crc8 v s]) = 0x00#8) ∧
  crc8 .tmcL07 [0x01#8] = 0x89#8 ∧ crc8 .tmcL07 [0x01#8, 0x89#8] = 0x48#8

/-- 40_crc.md section 3 (the spec marks the properties as derived there): for every variant the CRC
is linear over XOR, a sequence with one bit set has a CRC other than 0, and flipping any one bit of a
sequence sealed with its CRC, the CRC byte included, makes the check fail. -/
def Obligations.SingleBitErrorsFailTheCrcCheck : Prop :=
  ∀ v : CrcVariant,
    (∀ a b : List Byte, a.length = b.length → crc8 v (xorBytes a b) = crc8 v a ^^^ crc8 v b) ∧
    (∀ m n k : Nat, k < 8 →
      crc8 v (List.replicate m 0x00#8 ++ [1#8 <<< k] ++ List.replicate n 0x00#8) ≠ 0x00#8) ∧
    (∀ (b : List Byte) (j k : Nat), j ≤ b.length → k < 8 →
      let bad := flipBit (b ++ [crc8 v b]) j k
      bad.getLast? ≠ some (crc8 v bad.dropLast))

/-- 41_register_map.md section 3 (the spec marks the properties as derived there), for any descriptor
that meets conditions 2 and 3 of R69. -/
def Obligations.ExtractReadsBackWhatMergeWrote : Prop :=
  ∀ D : Descriptor, maskOk D = true →
    (∀ raw : Word, raw &&& ~~~D.mask = 0 → extract raw D = raw >>> D.shift.val) ∧
    (∀ old v : Word, (extract (merge old v D) D).toNat = v.toNat % 2 ^ descWidth D ∧
      merge old v D &&& ~~~D.mask = old &&& ~~~D.mask)

/-- 42_datagram_codec.md section 4 (the spec marks the property as derived there): a reply that holds
the fields at their offsets, anything elsewhere, and its CRC parses to exactly those fields, under
every legal layout; and under COMPACT7 the reply of the three fields alone does. -/
def Obligations.SyntheticRepliesParse : Prop :=
  (∀ (P : Params) (b : List Byte) (a r : Byte) (d : Word), layoutOk P.replyLayout = true →
    b.length + 1 = P.replyLayout.len →
    b[P.replyLayout.addrOff]? = some a → b[P.replyLayout.regOff]? = some r →
    (b.drop P.replyLayout.dataOff).take 4 = be32 d →
    parse P (b ++ [crc8 P.crcVariant b]) = some (a, r, d)) ∧
  (∀ (P : Params) (a r : Byte) (d : Word), P.replyLayout = compact7 →
    parse P ([a, r] ++ be32 d ++ [crc8 P.crcVariant ([a, r] ++ be32 d)]) = some (a, r, d))

/-- 42_datagram_codec.md section 3 (a corner case of PARSE_REPLY the spec marks as derived): under
ECHO9 a write datagram parses to its own node, register byte and data. -/
def Obligations.Echo9ParsesWriteDatagrams : Prop :=
  ∀ (P : Params) (n : BitVec 2) (D : Descriptor) (d : Word), P.replyLayout = echo9 →
    parse P (buildWrite P n D d) =
      some (n.setWidth 8, (descAddr D).setWidth 8 ||| 0x80#8, d)

/-- 44_device_handle.md section 2 (the spec marks the bound as derived there): the clock constant is
at most 307,441,043,312, so the 48-bit field holds it exactly. -/
def Obligations.ClockConstantFitsItsField : Prop :=
  ∀ (P : Params) (steps : BitVec 16) (m : Nat), 1000000 ≤ P.fClk → m ≤ 8 →
    (clockConstOf P steps m).toNat =
      (steps.toNat * 2 ^ (8 - m) * 2 ^ 40 + 30 * P.fClk) / (60 * P.fClk) ∧
    (clockConstOf P steps m).toNat ≤ 307441043312

/-- 44_device_handle.md section 3, the table of microstep multipliers and clock constants (the spec
marks its last row as derived). -/
def Obligations.MicrostepTableIsMet : Prop :=
  (List.range 9).map mult = [256, 128, 64, 32, 16, 8, 4, 2, 1] ∧
  (List.range 9).map (clockConstNat blockParams 200) =
    [78187494, 39093747, 19546873, 9773437, 4886718, 2443359, 1221680, 610840, 305420]

/-- 45_motion.md section 1 with the rounding of 00_scope.md section 4: an accepted velocity is the
exact product over 2^32 rounded to the nearest, ties away from zero, and is inside the field; and the
reverse rpm gives the reverse value where that is inside the field too. -/
def Obligations.VelocityRoundsHalfAwayFromZero : Prop :=
  ∀ (P : Params) (rpm : Int) (cc : Nat) (v : Int), velocity P rpm cc = some v →
    let x := rpm * cc * signValue P.directionSign
    2 * |v * 2 ^ 32 - x| ≤ 2 ^ 32 ∧ (2 * |v * 2 ^ 32 - x| = 2 ^ 32 → |x| < |v| * 2 ^ 32) ∧
    -(2 ^ (P.vactualWidth - 1)) ≤ v ∧ v ≤ 2 ^ (P.vactualWidth - 1) - 1 ∧
    (-v ≤ 2 ^ (P.vactualWidth - 1) - 1 → velocity P (-rpm) cc = some (-v))

/-- 45_motion.md section 2: the step count is below a whole turn, depends on the angle modulo 360
degrees only, and fits the 24 bits the timer's interface gives it (60_exceptions.md section 5). -/
def Obligations.AngleCountsStayBelowATurn : Prop :=
  ∀ (angle steps m : Nat), m ≤ 8 → steps < 2 ^ 16 →
    angleSteps angle steps m ≤ steps * 2 ^ (8 - m) - 1 ∧ angleSteps angle steps m < 2 ^ 24 ∧
    angleSteps (angle + 360 * 2 ^ 16) steps m = angleSteps angle steps m

/-- 45_motion.md section 2 (the spec marks the property as derived there): rpm 0 gives velocity 0
for every clock constant, and in Ready SET_SPEED 0 transmits VACTUAL = 0. -/
def Obligations.ZeroRpmWritesZero : Prop :=
  (∀ (P : Params) (cc : Nat), velocity P 0 cc = some 0) ∧
  ∀ s : State, s.handle.hs = .ready → s.txAnswer = .ok →
    let node : Byte := s.handle.nodeAddr.setWidth 8
    let w := [0x05#8, 0x00#8, node, 0xA2#8, 0x00#8, 0x00#8, 0x00#8, 0x00#8,
      crc8 .refl8C [0x05#8, 0x00#8, node, 0xA2#8, 0x00#8, 0x00#8, 0x00#8, 0x00#8]]
    exec (.setSpeed 0) s = .next ((s.transmit w).replied (0x00#8 :: w)) ∧
    (s.handle.nodeAddr = 0 → w.getLast? = some 0xE6#8)

/-- 45_motion.md section 1 (a property of SET_SPEED the spec marks as derived): after the range check
SET_SPEED is WRITE_ACCESS of W_VACTUAL with the 32 low bits of the velocity. -/
def Obligations.SetSpeedIsAVactualWrite : Prop :=
  ∀ (s : State) (rpm : Word) (v : Int), s.handle.hs = .ready →
    velocity blockParams rpm.toInt s.handle.clockConst.toNat = some v →
    exec (.setSpeed rpm) s = exec (.writeAccess 0xA2#8 (BitVec.ofInt 32 v)) s

/-- 41_register_map.md section 1: the default table and the block's other parameters are legal (the
spec marks this as derived), an illegal parameter set has no machine ("the table is refused, not
partly used"), a legal one has the machine that takes the steps of those parameters from the state
after reset, and the block is the machine of its own parameters. -/
def Obligations.OnlyLegalParametersHaveAMachine : Prop :=
  paramsOk blockParams = true ∧
  (∀ P : Params, paramsOk P = false → machineOf P = none) ∧
  (∀ P : Params, paramsOk P = true → machineOf P = some
    { State := State, Fault := Fault, Refusal := Refusal, step := stepWith P, reset := State.reset }) ∧
  (∀ s : State, stepWith blockParams s = step s) ∧
  machineOf blockParams = some Sys2Proof.core

/-! ### The collaborators -/

/-- 60_exceptions.md R107: `Receive` answers exactly the bytes it was asked for, or `IoError`; and
under no law: every sequence of that length, and every outcome of `Transmit`, is some state's
answer. The lists of scripted answers are the model's (log entries 7 and 8). -/
def Obligations.UartAnswersAreExactAndFree : Prop :=
  (∀ (s : State) (n : Nat) (bs : List Byte), s.rxAnswer n = some bs → bs.length = n) ∧
  (∀ (s : State) (bs : List Byte), ∃ t : State, t.handle = s.handle ∧ t.rxAnswer bs.length = some bs) ∧
  (∀ (s : State) (n : Nat), ∃ t : State, t.handle = s.handle ∧ t.rxAnswer n = none) ∧
  (∀ (s : State) (a : TxAnswer), ∃ t : State, t.handle = s.handle ∧ t.txAnswer = a)

/-! ### The machine as a whole -/

/-- 93_implementation_defined.md: "No behaviour of the block is `stuck`: every command ends with a
response". Every step answers a next state, and takes at most one input. -/
def Obligations.EveryStepAnswersANextState : Prop :=
  ∀ s : State, ∃ t : State, step s = .next t ∧ t.inbox = s.inbox.tail

/-- 00_scope.md R6, 20_memory.md R37, 30_encoding.md R51, 60_exceptions.md R99: a command frame, well
formed or not, gets exactly one response, after all its collaborator events; its first byte is one of
the eight codes, and an error code stands alone. -/
def Obligations.EveryFrameGetsOneResponse : Prop :=
  ∀ (s : State) (f : List Byte) (rest : List Input), s.inbox = .packet (.command f) :: rest →
    ∃ (t : State) (evs : List Event) (c : Byte) (p : List Byte),
      step s = .next t ∧ t.inbox = rest ∧ t.trace = s.trace ++ evs ++ [.respond (c :: p)] ∧
      evs.all (fun e => !isResponse e) = true ∧ c.toNat ≤ 7 ∧ (c ≠ 0x00#8 → p = [])

/-- 60_exceptions.md section 1, 00_scope.md section 4 (the spec marks the sentence "a command that
raises leaves every handle field as it was before the command" as derived): an exception is
precise. -/
def Obligations.ExceptionsLeaveTheHandleAlone : Prop :=
  ∀ (i : Instr) (s t : State) (e : Status), exec i s = .next t → e ≠ .ok →
    t.trace.getLast? = some (.respond [e.code]) → t.handle = s.handle

/-- 60_exceptions.md section 2: no instruction reports a status outside its row of the exception
matrix. For the three datagrams the row is the model's choice (log entries 4 and 5). -/
def Obligations.StatusesStayInTheMatrix : Prop :=
  ∀ (i : Instr) (s t : State) (evs : List Event) (e : Status), exec i s = .next t → e ≠ .ok →
    t.trace = s.trace ++ evs ++ [.respond [e.code]] → e ∈ mayRaise i

/-- 10_state.md section 2, the stateless commands: each has one response, the same in every state,
and does nothing else. -/
def Obligations.StatelessCommandsReadNoState : Prop :=
  ∀ i : Instr, isStateless i = true →
    ∃ p : List Byte, ∀ s : State, exec i s = .next (s.replied p)

/-- 10_state.md section 2, the table of readers and writers, its write marks: what each instruction
leaves unchanged of the handle, the waiting inputs, and the UART's answers to come with the counts of
its calls (the last two are the model's fields: log entries 1 and 7). -/
def Obligations.HandleFieldsHaveTheirWriters : Prop :=
  ∀ (i : Instr) (s t : State), exec i s = .next t →
    t.inbox = s.inbox ∧
    (transmits i = false → t.txAnswers = s.txAnswers ∧ t.txCount = s.txCount) ∧
    (receives i = false → t.rxAnswers = s.rxAnswers ∧ t.rxCount = s.rxCount) ∧
    ((∀ n st, i ≠ .init n st) →
      t.handle.hs = s.handle.hs ∧ t.handle.nodeAddr = s.handle.nodeAddr ∧
      t.handle.engineSteps = s.handle.engineSteps) ∧
    ((∀ n st, i ≠ .init n st) → (∀ m, i ≠ .setMicrostep m) →
      t.handle.microstep = s.handle.microstep ∧ t.handle.clockConst = s.handle.clockConst) ∧
    ((∀ n st, i ≠ .init n st) → (∀ m, i ≠ .setMicrostep m) → (∀ r, i ≠ .readAccess r) →
      (∀ r v, i ≠ .writeAccess r v) → t.handle = s.handle) ∧
    ((∀ n st, i ≠ .init n st) → i ≠ .readAccess 0x00#8 → (∀ v, i ≠ .writeAccess 0x80#8 v) →
      t.handle.shadowGconf = s.handle.shadowGconf) ∧
    ((∀ n st, i ≠ .init n st) → (∀ v, i ≠ .writeAccess 0x83#8 v) →
      t.handle.shadowNodeconf = s.handle.shadowNodeconf) ∧
    ((∀ n st, i ≠ .init n st) → (∀ m, i ≠ .setMicrostep m) → i ≠ .readAccess 0x6C#8 →
      (∀ v, i ≠ .writeAccess 0xEC#8 v) → t.handle.shadowChopconf = s.handle.shadowChopconf)

/-- 44_device_handle.md R88: reset enters Uninitialized; INIT with a legal node enters Ready from
either state; nothing else changes `HS`, so no command leaves Ready; and in Uninitialized the five
handle commands raise InvalidState and do nothing else, whatever their operands. -/
def Obligations.LifecycleFollowsInitAndReset : Prop :=
  (State.reset.handle.hs = .uninitialized) ∧
  (∀ (s t : State) (rest : List Input), s.inbox = .reset :: rest → step s = .next t →
    t.handle.hs = .uninitialized) ∧
  (∀ (s : State) (n : Byte) (steps : BitVec 16), n.toNat < 4 →
    ∃ t : State, exec (.init n steps) s = .next t ∧ t.handle.hs = .ready) ∧
  (∀ s t : State, step s = .next t → t.handle.hs ≠ s.handle.hs →
    s.inbox.head? = some .reset ∨
      ∃ n s1 s0, n.toNat < 4 ∧ s.inbox.head? = some (.packet (.command [0x01#8, n, s1, s0]))) ∧
  (∀ (i : Instr) (s : State), needsReady i = true → s.handle.hs = .uninitialized →
    exec i s = .next (s.replied [0x03#8]))

/-- 60_exceptions.md section 4: "No input of the block can start an action on its own": bytes the
UART line carries outside a `Receive` are not seen, and where a step performs an event or gives a
response, or writes the handle without a reset, it took a packet the host gave. That the line and
reset stand among the inputs is the model's choice (log entries 3 and 6). -/
def Obligations.OnlyTheHostStartsAnAction : Prop :=
  (∀ (s : State) (b : List Byte) (rest : List Input), s.inbox = .line b :: rest →
    step s = .next { s with inbox := rest }) ∧
  (∀ s t : State, step s = .next t → t.trace ≠ s.trace → ∃ p, s.inbox.head? = some (.packet p)) ∧
  (∀ s t : State, step s = .next t → t.handle ≠ s.handle → s.inbox.head? ≠ some .reset →
    ∃ f, s.inbox.head? = some (.packet (.command f)))

/-- 20_memory.md section 4, 60_exceptions.md section 2 ("An address without a descriptor never reaches
the chip"): a command frame transmits only datagrams whose register byte is an identifier of the
block's table. (A datagram the host gives to the codec alone is not looked up: the model's choice, log
entry 21.) -/
def Obligations.CommandsReachListedRegistersOnly : Prop :=
  ∀ (s t : State) (f : List Byte) (rest : List Input),
    s.inbox = .packet (.command f) :: rest → step s = .next t →
    ∃ evs : List Event, t.trace = s.trace ++ evs ∧ evs.all (eventListed blockParams) = true

/-- 70_reset_and_hazards.md section 1: reset as the next input sets `HS` to 0, performs no event,
gives no response and loses no pending command. That reset stands among the inputs is the model's
choice (log entry 3). -/
def Obligations.ResetIsSilentAndLosesNoCommand : Prop :=
  ∀ (s : State) (rest : List Input), s.inbox = .reset :: rest →
    ∃ t : State, step s = .next t ∧ t.handle.hs = .uninitialized ∧ t.inbox = rest ∧
      t.trace = s.trace ∧ t.txAnswers = s.txAnswers ∧ t.rxAnswers = s.rxAnswers

/-- 70_reset_and_hazards.md section 3, the zero-shadow clobber: SET_MICROSTEP right after INIT sends
CHOPCONF with every bit outside MRES equal to 0. -/
def Obligations.FirstMicrostepWriteClearsTheRest : Prop :=
  ∀ (s t : State) (n m : Byte) (steps : BitVec 16), n.toNat < 4 → m.toNat ≤ 8 →
    exec (.init n steps) s = .next t → t.txAnswer = .ok →
    ∃ u : State, exec (.setMicrostep m) t = .next u ∧
      u.handle.shadowChopconf = m.setWidth 32 <<< 24 ∧
      u.handle.shadowChopconf &&& 0xF0FFFFFF#32 = 0 ∧
      ∃ c p, u.trace = t.trace ++
        [.transmit [0x05#8, 0x00#8, n, 0xEC#8, m, 0x00#8, 0x00#8, 0x00#8, c], .respond p]

/-- The handle's invariant (10_state.md section 2) and the well-formedness of the run so far hold at
reset. -/
def Obligations.ResetIsSafe : Prop := State.reset.Safe blockParams

/-- 10_state.md section 2 (the spec marks these as derived there): in Ready, after every step, the
microstep code is legal and the clock constant is that of the handle's steps and code. -/
def Obligations.StepsKeepTheClockConstantInStep : Prop :=
  ∀ s t : State, s.handle.Inv blockParams → step s = .next t → t.handle.Inv blockParams

/-- 42_datagram_codec.md section 4 (the spec marks "Every datagram the block builds ends with the CRC
of all its preceding bytes" as derived), 60_exceptions.md R99, R107, R108: every step adds only
well-formed events, from any state at all. -/
def Obligations.StepsAddOnlyWellFormedEvents : Prop :=
  ∀ s t : State, s.traceOk blockParams = true → step s = .next t → t.traceOk blockParams = true

/-- 70_reset_and_hazards.md section 1 (the spec marks "No command can observe an unspecified handle
field" as derived): two runs of any number of steps that start from states differing only in the
handle fields that are unspecified in Uninitialized show the environment the same events and
responses. -/
def Obligations.UnspecifiedFieldsAreNeverObserved : Prop :=
  ∀ (k : Nat) (s s' : State), s.Agree s' →
    ∃ t t' : State, Host.Core.run Sys2Proof.core k s = .next t ∧
      Host.Core.run Sys2Proof.core k s' = .next t' ∧ t.trace = t'.trace ∧ t.Agree t'

/-! ### The assembler -/

/-- 30_encoding.md section 5, the pseudo-commands and their expansions: REFRESH is READ_ACCESS of
every operand text, under every parameter set. -/
def Obligations.PseudoCommandsExpand : Prop :=
  (∀ (P : Params) (text : List Char),
    assembleWord P .refresh text = assembleWord P (.command .readAccess) text) ∧
  assembleLine blockParams "STOP_VELOCITY".toList = assembleLine blockParams "SET_SPEED 0".toList ∧
  assembleLine blockParams "SET_SPEED 0".toList = some (.setSpeed 0) ∧
  assembleLine blockParams "READ_MRES".toList =
    assembleLine blockParams "READ_ACCESS R_CHOPCONF".toList ∧
  assembleLine blockParams "READ_ACCESS R_CHOPCONF".toList = some (.readAccess 0x6C) ∧
  assembleLine blockParams "READ_SG".toList =
    assembleLine blockParams "READ_ACCESS R_SG_RESULT".toList ∧
  assembleLine blockParams "READ_ACCESS R_SG_RESULT".toList = some (.readAccess 0x41) ∧
  assembleLine blockParams "REFRESH R_GCONF".toList =
    assembleLine blockParams "READ_ACCESS R_GCONF".toList ∧
  assembleLine blockParams "READ_ACCESS R_GCONF".toList = some (.readAccess 0x00)

/-- 30_encoding.md section 5: "It refuses any number whose value times 2^16 is not an integer in the
operand's range, so it never rounds": an operand text that is not a raw operand word is accepted
exactly where it is a decimal number that is the operand word over 2^16, in the range of a Q16.16 rpm
or of a UQ16.16 angle; and a raw operand word is the operand itself. -/
def Obligations.AssemblerNeverRounds : Prop :=
  (∀ (text : List Char) (w : Word),
    rawWord? "rpm#0x".toList (trimBlanks text) = some w → rpmOperand? text = some w) ∧
  (∀ (text : List Char) (w : Word), rawWord? "rpm#0x".toList (trimBlanks text) = none →
    (rpmOperand? text = some w ↔ ∃ (d : Decimal) (q : Int), decimal? (trimBlanks text) = some d ∧
      q * 10 ^ d.places = d.mantissa * 2 ^ 16 ∧ -(2 ^ 31) ≤ q ∧ q ≤ 2 ^ 31 - 1 ∧ w.toInt = q)) ∧
  (∀ (text : List Char) (w : Word),
    rawWord? "angle#0x".toList (trimBlanks text) = some w → angleOperand? text = some w) ∧
  (∀ (text : List Char) (w : Word), rawWord? "angle#0x".toList (trimBlanks text) = none →
    (angleOperand? text = some w ↔ ∃ (d : Decimal) (q : Int), decimal? (trimBlanks text) = some d ∧
      q * 10 ^ d.places = d.mantissa * 2 ^ 16 ∧ 0 ≤ q ∧ q ≤ 2 ^ 32 - 1 ∧ (w.toNat : Int) = q))
end

