-- ==== Sys2Proof/Laws/Bytes.lean ====
section
/-! SUPPORT. Byte order and operand encodings: splitting and joining are inverse. -/

namespace Sys2Proof.Machine

theorem be32_unbe32 (a b c d : Byte) : be32 (unbe32 a b c d) = [a, b, c, d] := by
  unfold be32 unbe32
  refine List.cons_eq_cons.2 ⟨?_, List.cons_eq_cons.2 ⟨?_, List.cons_eq_cons.2 ⟨?_,
    List.cons_eq_cons.2 ⟨?_, rfl⟩⟩⟩⟩ <;>
  · apply BitVec.eq_of_getLsbD_eq
    intro i hi
    interval_cases i <;> simp only [BitVec.getLsbD_extractLsb', BitVec.getLsbD_append] <;> simp

theorem unbe32_be32 (v : Word) :
    unbe32 (v.extractLsb' 24 8) (v.extractLsb' 16 8) (v.extractLsb' 8 8) (v.extractLsb' 0 8) = v := by
  unfold unbe32
  apply BitVec.eq_of_getLsbD_eq
  intro i hi
  interval_cases i <;> simp only [BitVec.getLsbD_extractLsb', BitVec.getLsbD_append] <;> simp

theorem be16_unbe16 (a b : Byte) : be16 (unbe16 a b) = [a, b] := by
  unfold be16 unbe16
  refine List.cons_eq_cons.2 ⟨?_, List.cons_eq_cons.2 ⟨?_, rfl⟩⟩ <;>
  · apply BitVec.eq_of_getLsbD_eq
    intro i hi
    interval_cases i <;> simp only [BitVec.getLsbD_extractLsb', BitVec.getLsbD_append] <;> simp

theorem unbe16_be16 (v : BitVec 16) : unbe16 (v.extractLsb' 8 8) (v.extractLsb' 0 8) = v := by
  unfold unbe16
  apply BitVec.eq_of_getLsbD_eq
  intro i hi
  interval_cases i <;> simp only [BitVec.getLsbD_extractLsb', BitVec.getLsbD_append] <;> simp

@[simp] theorem be32_length (v : Word) : (be32 v).length = 4 := rfl

@[simp] theorem be16_length (v : BitVec 16) : (be16 v).length = 2 := rfl

/-- A node byte is legal exactly below 4 (R54). -/
theorem nodeOf?_eq (n : Byte) :
    nodeOf? n = if n.toNat < 4 then some (n.setWidth 2) else none := by
  revert n; decide

/-- A legal node byte is the node's own byte in a datagram. -/
theorem node_setWidth (n : Byte) (h : n.toNat < 4) : ((n.setWidth 2 : BitVec 2).setWidth 8 : Byte) = n := by
  revert n; decide

@[simp] theorem writeBody_length (n : BitVec 2) (r : BitVec 7) (d : Word) :
    (writeBody n r d).length = 8 := rfl

@[simp] theorem readBody_length (n : BitVec 2) (r : BitVec 7) : (readBody n r).length = 4 := rfl

/-- The register byte of a read request is the address: 7 bits have no bit 7 (R56). -/
theorem readBody_eq (n : BitVec 2) (r : BitVec 7) :
    readBody n r = [0x05#8, 0x00#8, n.setWidth 8, r.setWidth 8] := by
  have h : ∀ r : BitVec 7, (r.setWidth 8 &&& 0x7F#8 : Byte) = r.setWidth 8 := by decide
  simp [readBody, h]

/-- The write flag of a write datagram's register byte (R55). -/
theorem write_flag (r : BitVec 7) : (r.setWidth 8 ||| 0x80#8 : Byte).getLsbD 7 = true := by
  revert r; decide

/-- The write flag of a read request's register byte (R56). -/
theorem read_flag (r : BitVec 7) : (r.setWidth 8 : Byte).getLsbD 7 = false := by
  revert r; decide

end Sys2Proof.Machine
end

