-- ==== Sys2Proof/Laws/Convert.lean ====
section
/-! SUPPORT. The converters: their formulas for this block, and their bounds. -/

namespace Sys2Proof.Machine

/-- The multiplier of a code is a power of two (R19). -/
theorem mult_eq (m : Nat) : mult m = 2 ^ (8 - m) := by
  rw [mult, Nat.one_shiftLeft]

/-- The multiplier is at most 256. -/
theorem mult_le (m : Nat) : mult m ≤ 256 := by
  rw [mult_eq]
  calc 2 ^ (8 - m) ≤ 2 ^ 8 := Nat.pow_le_pow_right (by norm_num) (by omega)
    _ = 256 := by norm_num

/-- The clock constant of this block (R89 at 12 MHz). -/
theorem clockConstOf_block (steps : BitVec 16) (m : Nat) :
    clockConstOf blockParams steps m = BitVec.ofNat 48
      ((steps.toNat * 2 ^ (8 - m) * 2 ^ 40 + 30 * 12000000) / (60 * 12000000)) := by
  unfold clockConstOf clockConstNat roundHalfUp
  rw [mult_eq, show 60 * blockParams.fClk / 2 = 30 * 12000000 from rfl,
    show 60 * blockParams.fClk = 60 * 12000000 from rfl]

/-- A step count is 0 or below a whole turn (R95). -/
theorem angleSteps_lt (angle steps m : Nat) :
    angleSteps angle steps m = 0 ∨ angleSteps angle steps m < steps * mult m := by
  unfold angleSteps roundHalfUp
  generalize steps * mult m = T
  have hA : angle % (360 * 2 ^ 16) < 360 * 2 ^ 16 := Nat.mod_lt _ (by norm_num)
  generalize angle % (360 * 2 ^ 16) = A at *
  have hc : (A * T + 360 * 2 ^ 16 / 2) / (360 * 2 ^ 16) ≤ T := by
    rw [Nat.div_le_iff_le_mul_add_pred (by norm_num)]
    have : A * T ≤ (360 * 2 ^ 16 - 1) * T := Nat.mul_le_mul_right _ (by omega)
    omega
  simp only
  split <;> omega

/-- The step count of 16-bit steps fits 24 bits (R96, R108). -/
theorem angleSteps_lt_24 (angle : Nat) (steps : BitVec 16) (m : Nat) :
    angleSteps angle steps.toNat m < 2 ^ 24 := by
  have h1 := mult_le m
  have h2 : steps.toNat ≤ 65535 := by omega
  have h3 : steps.toNat * mult m ≤ 65535 * 256 := Nat.mul_le_mul h2 h1
  rcases angleSteps_lt angle steps.toNat m with h | h <;> omega

end Sys2Proof.Machine
end

