-- ==== Sys2Proof/Laws/State.lean ====
section
/-! SUPPORT. One lemma per field per update of the state, so that no proof unfolds an update. -/

namespace Sys2Proof.Machine

variable (s : State)

@[simp] theorem State.emit_handle (e : Event) : (s.emit e).handle = s.handle := rfl
@[simp] theorem State.emit_inbox (e : Event) : (s.emit e).inbox = s.inbox := rfl
@[simp] theorem State.emit_txAnswers (e : Event) : (s.emit e).txAnswers = s.txAnswers := rfl
@[simp] theorem State.emit_rxAnswers (e : Event) : (s.emit e).rxAnswers = s.rxAnswers := rfl
@[simp] theorem State.emit_txCount (e : Event) : (s.emit e).txCount = s.txCount := rfl
@[simp] theorem State.emit_rxCount (e : Event) : (s.emit e).rxCount = s.rxCount := rfl
@[simp] theorem State.emit_trace (e : Event) : (s.emit e).trace = s.trace ++ [e] := rfl

@[simp] theorem State.setHandle_handle (h : Handle) : (s.setHandle h).handle = h := rfl
@[simp] theorem State.setHandle_inbox (h : Handle) : (s.setHandle h).inbox = s.inbox := rfl
@[simp] theorem State.setHandle_txAnswers (h : Handle) : (s.setHandle h).txAnswers = s.txAnswers := rfl
@[simp] theorem State.setHandle_rxAnswers (h : Handle) : (s.setHandle h).rxAnswers = s.rxAnswers := rfl
@[simp] theorem State.setHandle_txCount (h : Handle) : (s.setHandle h).txCount = s.txCount := rfl
@[simp] theorem State.setHandle_rxCount (h : Handle) : (s.setHandle h).rxCount = s.rxCount := rfl
@[simp] theorem State.setHandle_trace (h : Handle) : (s.setHandle h).trace = s.trace := rfl

@[simp] theorem State.transmit_handle (b : List Byte) : (s.transmit b).handle = s.handle := rfl
@[simp] theorem State.transmit_inbox (b : List Byte) : (s.transmit b).inbox = s.inbox := rfl
@[simp] theorem State.transmit_txAnswers (b : List Byte) : (s.transmit b).txAnswers = s.txAnswers.tail := rfl
@[simp] theorem State.transmit_rxAnswers (b : List Byte) : (s.transmit b).rxAnswers = s.rxAnswers := rfl
@[simp] theorem State.transmit_txCount (b : List Byte) : (s.transmit b).txCount = s.txCount + 1 := rfl
@[simp] theorem State.transmit_rxCount (b : List Byte) : (s.transmit b).rxCount = s.rxCount := rfl
@[simp] theorem State.transmit_trace (b : List Byte) : (s.transmit b).trace = s.trace ++ [.transmit b] := rfl

@[simp] theorem State.receive_handle (n t : Nat) : (s.receive n t).handle = s.handle := rfl
@[simp] theorem State.receive_inbox (n t : Nat) : (s.receive n t).inbox = s.inbox := rfl
@[simp] theorem State.receive_txAnswers (n t : Nat) : (s.receive n t).txAnswers = s.txAnswers := rfl
@[simp] theorem State.receive_rxAnswers (n t : Nat) : (s.receive n t).rxAnswers = s.rxAnswers.tail := rfl
@[simp] theorem State.receive_txCount (n t : Nat) : (s.receive n t).txCount = s.txCount := rfl
@[simp] theorem State.receive_rxCount (n t : Nat) : (s.receive n t).rxCount = s.rxCount + 1 := rfl
@[simp] theorem State.receive_trace (n t : Nat) : (s.receive n t).trace = s.trace ++ [.receive n t] := rfl

@[simp] theorem State.timerStart_handle (c r : Word) : (s.timerStart c r).handle = s.handle := rfl
@[simp] theorem State.timerStart_inbox (c r : Word) : (s.timerStart c r).inbox = s.inbox := rfl
@[simp] theorem State.timerStart_txAnswers (c r : Word) : (s.timerStart c r).txAnswers = s.txAnswers := rfl
@[simp] theorem State.timerStart_rxAnswers (c r : Word) : (s.timerStart c r).rxAnswers = s.rxAnswers := rfl
@[simp] theorem State.timerStart_txCount (c r : Word) : (s.timerStart c r).txCount = s.txCount := rfl
@[simp] theorem State.timerStart_rxCount (c r : Word) : (s.timerStart c r).rxCount = s.rxCount := rfl
@[simp] theorem State.timerStart_trace (c r : Word) : (s.timerStart c r).trace = s.trace ++ [.timerStart c r] := rfl

@[simp] theorem State.timerStop_handle : s.timerStop.handle = s.handle := rfl
@[simp] theorem State.timerStop_inbox : s.timerStop.inbox = s.inbox := rfl
@[simp] theorem State.timerStop_txAnswers : s.timerStop.txAnswers = s.txAnswers := rfl
@[simp] theorem State.timerStop_rxAnswers : s.timerStop.rxAnswers = s.rxAnswers := rfl
@[simp] theorem State.timerStop_txCount : s.timerStop.txCount = s.txCount := rfl
@[simp] theorem State.timerStop_rxCount : s.timerStop.rxCount = s.rxCount := rfl
@[simp] theorem State.timerStop_trace : s.timerStop.trace = s.trace ++ [.timerStop] := rfl

@[simp] theorem State.dropInput_handle : s.dropInput.handle = s.handle := rfl
@[simp] theorem State.dropInput_inbox : s.dropInput.inbox = s.inbox.tail := rfl
@[simp] theorem State.dropInput_txAnswers : s.dropInput.txAnswers = s.txAnswers := rfl
@[simp] theorem State.dropInput_rxAnswers : s.dropInput.rxAnswers = s.rxAnswers := rfl
@[simp] theorem State.dropInput_txCount : s.dropInput.txCount = s.txCount := rfl
@[simp] theorem State.dropInput_rxCount : s.dropInput.rxCount = s.rxCount := rfl
@[simp] theorem State.dropInput_trace : s.dropInput.trace = s.trace := rfl

@[simp] theorem State.applyReset_handle : s.applyReset.handle = Handle.reset := rfl
@[simp] theorem State.applyReset_inbox : s.applyReset.inbox = s.inbox := rfl
@[simp] theorem State.applyReset_txAnswers : s.applyReset.txAnswers = s.txAnswers := rfl
@[simp] theorem State.applyReset_rxAnswers : s.applyReset.rxAnswers = s.rxAnswers := rfl
@[simp] theorem State.applyReset_txCount : s.applyReset.txCount = s.txCount := rfl
@[simp] theorem State.applyReset_rxCount : s.applyReset.rxCount = s.rxCount := rfl
@[simp] theorem State.applyReset_trace : s.applyReset.trace = s.trace := rfl

@[simp] theorem State.setShadowOf_inbox (D : Descriptor) (v : Word) :
    (s.setShadowOf D v).inbox = s.inbox := by unfold State.setShadowOf; split <;> rfl
@[simp] theorem State.setShadowOf_txAnswers (D : Descriptor) (v : Word) :
    (s.setShadowOf D v).txAnswers = s.txAnswers := by unfold State.setShadowOf; split <;> rfl
@[simp] theorem State.setShadowOf_rxAnswers (D : Descriptor) (v : Word) :
    (s.setShadowOf D v).rxAnswers = s.rxAnswers := by unfold State.setShadowOf; split <;> rfl
@[simp] theorem State.setShadowOf_txCount (D : Descriptor) (v : Word) :
    (s.setShadowOf D v).txCount = s.txCount := by unfold State.setShadowOf; split <;> rfl
@[simp] theorem State.setShadowOf_rxCount (D : Descriptor) (v : Word) :
    (s.setShadowOf D v).rxCount = s.rxCount := by unfold State.setShadowOf; split <;> rfl
@[simp] theorem State.setShadowOf_trace (D : Descriptor) (v : Word) :
    (s.setShadowOf D v).trace = s.trace := by unfold State.setShadowOf; split <;> rfl

/-! ### The handle -/

variable (h : Handle) (sh : Shadow) (v : Word)

@[simp] theorem Handle.setShadow_hs : (h.setShadow sh v).hs = h.hs := by cases sh <;> rfl
@[simp] theorem Handle.setShadow_nodeAddr : (h.setShadow sh v).nodeAddr = h.nodeAddr := by cases sh <;> rfl
@[simp] theorem Handle.setShadow_engineSteps : (h.setShadow sh v).engineSteps = h.engineSteps := by cases sh <;> rfl
@[simp] theorem Handle.setShadow_microstep : (h.setShadow sh v).microstep = h.microstep := by cases sh <;> rfl
@[simp] theorem Handle.setShadow_clockConst : (h.setShadow sh v).clockConst = h.clockConst := by cases sh <;> rfl
@[simp] theorem Handle.setShadow_shadow : (h.setShadow sh v).shadow sh = v := by cases sh <;> rfl
theorem Handle.setShadow_other (sh' : Shadow) (hne : sh' ≠ sh) :
    (h.setShadow sh v).shadow sh' = h.shadow sh' := by
  cases sh <;> cases sh' <;> first | rfl | exact absurd rfl hne

@[simp] theorem State.setShadowOf_handle_hs (D : Descriptor) :
    (s.setShadowOf D v).handle.hs = s.handle.hs := by
  unfold State.setShadowOf; split <;> simp
@[simp] theorem State.setShadowOf_handle_nodeAddr (D : Descriptor) :
    (s.setShadowOf D v).handle.nodeAddr = s.handle.nodeAddr := by
  unfold State.setShadowOf; split <;> simp
@[simp] theorem State.setShadowOf_handle_engineSteps (D : Descriptor) :
    (s.setShadowOf D v).handle.engineSteps = s.handle.engineSteps := by
  unfold State.setShadowOf; split <;> simp
@[simp] theorem State.setShadowOf_handle_microstep (D : Descriptor) :
    (s.setShadowOf D v).handle.microstep = s.handle.microstep := by
  unfold State.setShadowOf; split <;> simp
@[simp] theorem State.setShadowOf_handle_clockConst (D : Descriptor) :
    (s.setShadowOf D v).handle.clockConst = s.handle.clockConst := by
  unfold State.setShadowOf; split <;> simp
@[simp] theorem Handle.withMicrostep_hs (P : Params) (m : Byte) :
    (h.withMicrostep P v m).hs = h.hs := rfl
@[simp] theorem Handle.withMicrostep_nodeAddr (P : Params) (m : Byte) :
    (h.withMicrostep P v m).nodeAddr = h.nodeAddr := rfl
@[simp] theorem Handle.withMicrostep_engineSteps (P : Params) (m : Byte) :
    (h.withMicrostep P v m).engineSteps = h.engineSteps := rfl
@[simp] theorem Handle.withMicrostep_shadowGconf (P : Params) (m : Byte) :
    (h.withMicrostep P v m).shadowGconf = h.shadowGconf := rfl
@[simp] theorem Handle.withMicrostep_shadowNodeconf (P : Params) (m : Byte) :
    (h.withMicrostep P v m).shadowNodeconf = h.shadowNodeconf := rfl
@[simp] theorem Handle.withMicrostep_shadowChopconf (P : Params) (m : Byte) :
    (h.withMicrostep P v m).shadowChopconf = v := rfl
@[simp] theorem Handle.withMicrostep_microstep (P : Params) (m : Byte) :
    (h.withMicrostep P v m).microstep = m.setWidth 4 := rfl
@[simp] theorem Handle.withMicrostep_clockConst (P : Params) (m : Byte) :
    (h.withMicrostep P v m).clockConst = clockConstOf P h.engineSteps m.toNat := rfl

end Sys2Proof.Machine
end

