-- ==== Sys2Proof/Laws/Ops.lean ====
section
/-! SUPPORT. For each shared operation, what it does, said once. -/

namespace Sys2Proof.Machine

variable (s : State)

/-- A raise is one response frame, the code alone (R100). -/
theorem State.raise_eq (e : Status) : s.raise e = .next (s.replied [e.code]) := rfl

/-- A return is one response frame, OK and the results (R51). -/
theorem State.answer_eq (p : List Byte) : s.answer p = .next (s.replied (0x00#8 :: p)) := rfl

@[simp] theorem State.replied_handle (p : List Byte) : (s.replied p).handle = s.handle := rfl
@[simp] theorem State.replied_inbox (p : List Byte) : (s.replied p).inbox = s.inbox := rfl
@[simp] theorem State.replied_txAnswers (p : List Byte) : (s.replied p).txAnswers = s.txAnswers := rfl
@[simp] theorem State.replied_rxAnswers (p : List Byte) : (s.replied p).rxAnswers = s.rxAnswers := rfl
@[simp] theorem State.replied_txCount (p : List Byte) : (s.replied p).txCount = s.txCount := rfl
@[simp] theorem State.replied_rxCount (p : List Byte) : (s.replied p).rxCount = s.rxCount := rfl
@[simp] theorem State.replied_trace (p : List Byte) :
    (s.replied p).trace = s.trace ++ [.respond p] := rfl

/-- What `Receive` answers does not depend on the `Transmit` before it. -/
@[simp] theorem State.transmit_rxAnswer (b : List Byte) (n : Nat) :
    (s.transmit b).rxAnswer n = s.rxAnswer n := rfl

@[simp] theorem lineBytes_length (k n : Nat) (bs : List Byte) : (lineBytes k n bs).length = n := by
  simp [lineBytes]

/-- An answer of the right length is delivered as it stands. -/
theorem lineBytes_self (k : Nat) (bs : List Byte) : lineBytes k bs.length bs = bs := by
  simp [lineBytes]

/-- Everything the shadow write of a descriptor can do. -/
theorem State.setShadowOf_cases (D : Descriptor) (v : Word) :
    (D.shadow = none ∧ s.setShadowOf D v = s) ∨
    ∃ sh, D.shadow = some sh ∧ s.setShadowOf D v = s.setHandle (s.handle.setShadow sh v) := by
  cases h : D.shadow with
  | none => exact .inl ⟨rfl, by simp [State.setShadowOf, h]⟩
  | some sh => exact .inr ⟨sh, rfl, by simp [State.setShadowOf, h]⟩

/-- Everything a parsed reply can do (R78, R79). -/
theorem State.finishReply_cases (P : Params) (p : List Byte) :
    (parse P p = none ∧ s.finishReply P p = .next (s.replied [0x01#8])) ∨
    ∃ a r d, parse P p = some (a, r, d) ∧
      s.finishReply P p = .next (s.replied (0x00#8 :: a :: r :: be32 d)) := by
  cases h : parse P p with
  | none => exact .inl ⟨rfl, by simp only [State.finishReply, h]; rfl⟩
  | some v =>
    obtain ⟨a, r, d⟩ := v
    exact .inr ⟨a, r, d, rfl, by simp only [State.finishReply, h]; rfl⟩

/-- The parser on seven bytes under COMPACT7 (R57, R78). -/
theorem parse_compact7 (P : Params) (h : P.replyLayout = compact7) (a r d3 d2 d1 d0 c : Byte) :
    parse P [a, r, d3, d2, d1, d0, c] =
      if c = crc8 P.crcVariant [a, r, d3, d2, d1, d0] then some (a, r, unbe32 d3 d2 d1 d0)
      else none := by
  simp [parse, h, compact7]

/-! ### Look-up in the default table (R68) -/

/-- The readable identifiers of the default table. -/
theorem readable?_default_none (rid : Byte) (h : rid ∉ [0x00#8, 0x41#8, 0x6C#8]) :
    readable? defaultRegTable rid = none := by
  revert rid; decide

/-- The writable identifiers of the default table. -/
theorem writable?_default_none (rid : Byte) (h : rid ∉ [0x80#8, 0x83#8, 0xA2#8, 0xEC#8]) :
    writable? defaultRegTable rid = none := by
  revert rid; decide

/-- A readable descriptor of any table has the identifier asked for, with direction bit 0. -/
theorem readable?_some (t : List Descriptor) (rid : Byte) (D : Descriptor)
    (h : readable? t rid = some D) : D ∈ t ∧ D.rid = rid ∧ ridWritable rid = false := by
  unfold readable? at h
  split at h
  · cases h
  · rename_i hw
    unfold lookupRid at h
    exact ⟨List.mem_of_find?_eq_some h, by simpa using List.find?_some h, by simpa using hw⟩

/-- A writable descriptor of any table has the identifier asked for, with direction bit 1. -/
theorem writable?_some (t : List Descriptor) (rid : Byte) (D : Descriptor)
    (h : writable? t rid = some D) : D ∈ t ∧ D.rid = rid ∧ ridWritable rid = true := by
  unfold writable? at h
  split at h
  · rename_i hw
    unfold lookupRid at h
    exact ⟨List.mem_of_find?_eq_some h, by simpa using List.find?_some h, hw⟩
  · cases h

end Sys2Proof.Machine
end

