-- ==== Sys2Proof/Laws/Commands.lean ====
section
/-! SUPPORT. What one instruction can do: for each command one inversion lemma that lists every
outcome, so that no later proof splits its meaning again. -/

namespace Sys2Proof.Machine

variable (P : Params) (s : State)

/-- CALC_CRC. -/
theorem calcCrcWith_cases (d : List Byte) :
    (d = [] ∧ calcCrcWith P d s = .next (s.replied [0x07#8])) ∨
    (d ≠ [] ∧ calcCrcWith P d s = .next (s.replied [0x00#8, crc8 P.crcVariant d])) := by
  cases d with
  | nil => exact .inl ⟨rfl, rfl⟩
  | cons x xs => exact .inr ⟨by simp, rfl⟩

/-- MASK_FOR. -/
theorem maskForWith_cases (rid : Byte) :
    (readable? P.regTable rid = none ∧ maskForWith P rid s = .next (s.replied [0x07#8])) ∨
    ∃ D, readable? P.regTable rid = some D ∧ maskForWith P rid s =
      .next (s.replied (0x00#8 :: (be32 D.mask ++ [BitVec.ofNat 8 D.shift.val]))) := by
  cases h : readable? P.regTable rid with
  | none => exact .inl ⟨rfl, by simp only [maskForWith, h]; rfl⟩
  | some D => exact .inr ⟨D, rfl, by simp only [maskForWith, h]; rfl⟩

/-- BUILD_WRITE. -/
theorem buildWriteWith_cases (n rid : Byte) (d : Word) :
    buildWriteWith P n rid d s = .next (s.replied [0x07#8]) ∨
    ∃ m D, nodeOf? n = some m ∧ writable? P.regTable rid = some D ∧
      buildWriteWith P n rid d s = .next (s.replied (0x00#8 :: buildWrite P m D d)) := by
  cases hn : nodeOf? n with
  | none => exact .inl (by simp only [buildWriteWith, hn]; rfl)
  | some m =>
    cases h : writable? P.regTable rid with
    | none => exact .inl (by simp only [buildWriteWith, hn, h]; rfl)
    | some D => exact .inr ⟨m, D, rfl, rfl, by simp only [buildWriteWith, hn, h]; rfl⟩

/-- BUILD_READ. -/
theorem buildReadWith_cases (n rid : Byte) :
    buildReadWith P n rid s = .next (s.replied [0x07#8]) ∨
    ∃ m D, nodeOf? n = some m ∧ readable? P.regTable rid = some D ∧
      buildReadWith P n rid s = .next (s.replied (0x00#8 :: buildRead P m D)) := by
  cases hn : nodeOf? n with
  | none => exact .inl (by simp only [buildReadWith, hn]; rfl)
  | some m =>
    cases h : readable? P.regTable rid with
    | none => exact .inl (by simp only [buildReadWith, hn, h]; rfl)
    | some D => exact .inr ⟨m, D, rfl, rfl, by simp only [buildReadWith, hn, h]; rfl⟩

/-- INIT. -/
theorem initWith_cases (n : Byte) (steps : BitVec 16) :
    (4 ≤ n.toNat ∧ initWith P n steps s = .next (s.replied [0x07#8])) ∨
    (n.toNat < 4 ∧ initWith P n steps s =
      .next ((s.setHandle (Handle.initialised P (n.setWidth 2) steps)).replied [0x00#8])) := by
  by_cases h : n.toNat < 4
  · exact .inr ⟨h, by simp only [initWith, nodeOf?_eq, if_pos h]; rfl⟩
  · exact .inl ⟨by omega, by simp only [initWith, nodeOf?_eq, if_neg h]; rfl⟩

/-- READ_ACCESS. -/
theorem readAccessWith_cases (rid : Byte) :
    (s.handle.hs = .uninitialized ∧ readAccessWith P rid s = .next (s.replied [0x03#8])) ∨
    (s.handle.hs = .ready ∧ readable? P.regTable rid = none ∧
      readAccessWith P rid s = .next (s.replied [0x07#8])) ∨
    ∃ D, s.handle.hs = .ready ∧ readable? P.regTable rid = some D ∧
      let q := buildRead P s.handle.nodeAddr D
      let got := (s.transmit q).receive P.replyLayout.len P.rxTimeout
      (s.txAnswer = .ioError ∧
        readAccessWith P rid s = .next ((s.transmit q).replied [0x02#8])) ∨
      (s.txAnswer = .ok ∧ s.rxAnswer P.replyLayout.len = none ∧
        readAccessWith P rid s = .next (got.replied [0x02#8])) ∨
      ∃ y, s.txAnswer = .ok ∧ s.rxAnswer P.replyLayout.len = some y ∧
        ((parse P y = none ∧ readAccessWith P rid s = .next (got.replied [0x01#8])) ∨
        ∃ a r d, parse P y = some (a, r, d) ∧ readAccessWith P rid s =
          .next ((got.setShadowOf D d).replied (0x00#8 :: (be32 (extract d D) ++ y ++ q)))) := by
  cases h : s.handle.hs with
  | uninitialized =>
    exact .inl ⟨rfl, by simp only [readAccessWith, State.notReady, h]; rfl⟩
  | ready =>
    refine .inr ?_
    cases hD : readable? P.regTable rid with
    | none =>
      exact .inl ⟨rfl, rfl, by simp only [readAccessWith, State.notReady, h, hD]; rfl⟩
    | some D =>
      refine .inr ⟨D, rfl, rfl, ?_⟩
      intro q got
      cases ht : s.txAnswer with
      | ioError =>
        exact .inl ⟨rfl, by simp only [readAccessWith, State.notReady, h, hD, ht]; rfl⟩
      | ok =>
        refine .inr ?_
        cases hr : s.rxAnswer P.replyLayout.len with
        | none =>
          refine .inl ⟨rfl, rfl, ?_⟩
          simp only [readAccessWith, State.notReady, h, hD, ht, State.transmit_rxAnswer, hr]
          rfl
        | some y =>
          refine .inr ⟨y, rfl, rfl, ?_⟩
          cases hp : parse P y with
          | none =>
            refine .inl ⟨rfl, ?_⟩
            simp only [readAccessWith, State.notReady, h, hD, ht, State.transmit_rxAnswer, hr, hp]
            rfl
          | some v =>
            obtain ⟨a, r, d⟩ := v
            refine .inr ⟨a, r, d, rfl, ?_⟩
            simp only [readAccessWith, State.notReady, h, hD, ht, State.transmit_rxAnswer, hr, hp]
            rfl

/-- WRITE_ACCESS. -/
theorem writeAccessWith_cases (rid : Byte) (v : Word) :
    (s.handle.hs = .uninitialized ∧ writeAccessWith P rid v s = .next (s.replied [0x03#8])) ∨
    (s.handle.hs = .ready ∧ writable? P.regTable rid = none ∧
      writeAccessWith P rid v s = .next (s.replied [0x07#8])) ∨
    ∃ D, s.handle.hs = .ready ∧ writable? P.regTable rid = some D ∧
      let full := s.mergedValue D v
      let w := buildWrite P s.handle.nodeAddr D full
      (s.txAnswer = .ioError ∧
        writeAccessWith P rid v s = .next ((s.transmit w).replied [0x02#8])) ∨
      (s.txAnswer = .ok ∧ writeAccessWith P rid v s =
        .next (((s.transmit w).setShadowOf D full).replied (0x00#8 :: w))) := by
  cases h : s.handle.hs with
  | uninitialized =>
    exact .inl ⟨rfl, by simp only [writeAccessWith, State.notReady, h]; rfl⟩
  | ready =>
    refine .inr ?_
    cases hD : writable? P.regTable rid with
    | none =>
      exact .inl ⟨rfl, rfl, by simp only [writeAccessWith, State.notReady, h, hD]; rfl⟩
    | some D =>
      refine .inr ⟨D, rfl, rfl, ?_⟩
      intro full w
      cases ht : s.txAnswer with
      | ioError =>
        exact .inl ⟨rfl, by simp only [writeAccessWith, State.notReady, h, hD, ht]; rfl⟩
      | ok =>
        exact .inr ⟨rfl, by simp only [writeAccessWith, State.notReady, h, hD, ht]; rfl⟩

/-- SET_MICROSTEP. -/
theorem setMicrostepWith_cases (m : Byte) :
    (s.handle.hs = .uninitialized ∧ setMicrostepWith P m s = .next (s.replied [0x03#8])) ∨
    (s.handle.hs = .ready ∧ (8 < m.toNat ∨ lookupName P.regTable .wChopconf = none) ∧
      setMicrostepWith P m s = .next (s.replied [0x07#8])) ∨
    ∃ D, s.handle.hs = .ready ∧ m.toNat ≤ 8 ∧ lookupName P.regTable .wChopconf = some D ∧
      let full := merge s.handle.shadowChopconf (m.setWidth 32) D
      let w := buildWrite P s.handle.nodeAddr D full
      (s.txAnswer = .ioError ∧
        setMicrostepWith P m s = .next ((s.transmit w).replied [0x02#8])) ∨
      (s.txAnswer = .ok ∧ setMicrostepWith P m s =
        .next (((s.transmit w).setHandle (s.handle.withMicrostep P full m)).replied
          (0x00#8 :: w))) := by
  cases h : s.handle.hs with
  | uninitialized =>
    exact .inl ⟨rfl, by simp only [setMicrostepWith, State.notReady, h]; rfl⟩
  | ready =>
    refine .inr ?_
    by_cases hm : m.toNat > 8
    · refine .inl ⟨rfl, .inl hm, ?_⟩
      simp only [setMicrostepWith, State.notReady, h, hm, if_true]
      rfl
    · cases hD : lookupName P.regTable .wChopconf with
      | none =>
        refine .inl ⟨rfl, .inr rfl, ?_⟩
        simp only [setMicrostepWith, State.notReady, h, hm, hD, if_false]
        rfl
      | some D =>
        refine .inr ⟨D, rfl, by omega, rfl, ?_⟩
        intro full w
        cases ht : s.txAnswer with
        | ioError =>
          refine .inl ⟨rfl, ?_⟩
          simp only [setMicrostepWith, State.notReady, h, hm, hD, ht, if_false]
          rfl
        | ok =>
          refine .inr ⟨rfl, ?_⟩
          simp only [setMicrostepWith, State.notReady, h, hm, hD, ht, if_false]
          rfl

/-- SET_SPEED. -/
theorem setSpeedWith_cases (rpm : Word) :
    (s.handle.hs = .uninitialized ∧ setSpeedWith P rpm s = .next (s.replied [0x03#8])) ∨
    (s.handle.hs = .ready ∧ velocity P rpm.toInt s.handle.clockConst.toNat = none ∧
      setSpeedWith P rpm s = .next (s.replied [0x04#8])) ∨
    ∃ v, s.handle.hs = .ready ∧ velocity P rpm.toInt s.handle.clockConst.toNat = some v ∧
      ((lookupName P.regTable .wVactual = none ∧
        setSpeedWith P rpm s = .next (s.replied [0x07#8])) ∨
      ∃ D, lookupName P.regTable .wVactual = some D ∧
        let w := buildWrite P s.handle.nodeAddr D (place (BitVec.ofInt 32 v) D)
        (s.txAnswer = .ioError ∧
          setSpeedWith P rpm s = .next ((s.transmit w).replied [0x02#8])) ∨
        (s.txAnswer = .ok ∧
          setSpeedWith P rpm s = .next ((s.transmit w).replied (0x00#8 :: w)))) := by
  cases h : s.handle.hs with
  | uninitialized =>
    exact .inl ⟨rfl, by simp only [setSpeedWith, State.notReady, h]; rfl⟩
  | ready =>
    refine .inr ?_
    cases hv : velocity P rpm.toInt s.handle.clockConst.toNat with
    | none =>
      exact .inl ⟨rfl, rfl, by simp only [setSpeedWith, State.notReady, h, hv]; rfl⟩
    | some v =>
      refine .inr ⟨v, rfl, rfl, ?_⟩
      cases hD : lookupName P.regTable .wVactual with
      | none =>
        exact .inl ⟨rfl, by simp only [setSpeedWith, State.notReady, h, hv, hD]; rfl⟩
      | some D =>
        refine .inr ⟨D, rfl, ?_⟩
        intro w
        cases ht : s.txAnswer with
        | ioError =>
          exact .inl ⟨rfl, by simp only [setSpeedWith, State.notReady, h, hv, hD, ht]; rfl⟩
        | ok =>
          exact .inr ⟨rfl, by simp only [setSpeedWith, State.notReady, h, hv, hD, ht]; rfl⟩

/-- SET_ANGLE. -/
theorem setAngleWith_cases (angle : Word) :
    (s.handle.hs = .uninitialized ∧ setAngleWith P angle s = .next (s.replied [0x03#8])) ∨
    (s.handle.hs = .ready ∧
      let c := angleSteps angle.toNat s.handle.engineSteps.toNat s.handle.microstep.toNat
      (0 < c ∧ setAngleWith P angle s =
        .next ((s.timerStart (BitVec.ofNat 32 c) P.pulseRate).replied
          (0x00#8 :: be32 (BitVec.ofNat 32 c)))) ∨
      (c = 0 ∧ setAngleWith P angle s =
        .next (s.timerStop.replied (0x00#8 :: be32 (BitVec.ofNat 32 c))))) := by
  cases h : s.handle.hs with
  | uninitialized =>
    exact .inl ⟨rfl, by simp only [setAngleWith, State.notReady, h]; rfl⟩
  | ready =>
    refine .inr ⟨rfl, ?_⟩
    unfold setAngleWith
    rw [if_neg (by simp [State.notReady, h])]
    generalize angleSteps angle.toNat s.handle.engineSteps.toNat s.handle.microstep.toNat = c
    simp only [State.answer_eq]
    by_cases hc : 0 < c
    · exact .inl ⟨hc, if_pos hc⟩
    · exact .inr ⟨by omega, if_neg hc⟩

/-- PARSE_REPLY. -/
theorem parseReplyWith_cases (p : List Byte) :
    (p.length ≠ P.replyLayout.len ∧ parseReplyWith P p s = .next (s.replied [0x06#8])) ∨
    (p.length = P.replyLayout.len ∧ parse P p = none ∧
      parseReplyWith P p s = .next (s.replied [0x01#8])) ∨
    ∃ a r d, p.length = P.replyLayout.len ∧ parse P p = some (a, r, d) ∧
      parseReplyWith P p s = .next (s.replied (0x00#8 :: a :: r :: be32 d)) := by
  by_cases h : p.length = P.replyLayout.len
  · have e : parseReplyWith P p s = s.finishReply P p := if_neg (not_not.2 h)
    rw [e]
    rcases s.finishReply_cases P p with ⟨h1, h2⟩ | ⟨a, r, d, h1, h2⟩
    · exact .inr (.inl ⟨h, h1, h2⟩)
    · exact .inr (.inr ⟨a, r, d, h, h1, h2⟩)
  · exact .inl ⟨h, if_pos h⟩

/-- DGRAM_WRITE. -/
theorem dgramWriteWith_cases (n : BitVec 2) (r : BitVec 7) (d : Word) (c : Byte) :
    (c ≠ crc8 P.crcVariant (writeBody n r d) ∧
      dgramWriteWith P n r d c s = .next (s.replied [0x01#8])) ∨
    (c = crc8 P.crcVariant (writeBody n r d) ∧ s.txAnswer = .ioError ∧
      dgramWriteWith P n r d c s = .next ((s.transmit (writeBody n r d ++ [c])).replied [0x02#8])) ∨
    (c = crc8 P.crcVariant (writeBody n r d) ∧ s.txAnswer = .ok ∧
      dgramWriteWith P n r d c s = .next (s.transmit (writeBody n r d ++ [c]))) := by
  by_cases h : c = crc8 P.crcVariant (writeBody n r d)
  · refine .inr ?_
    cases ht : s.txAnswer with
    | ioError =>
      refine .inl ⟨h, rfl, ?_⟩
      simp only [dgramWriteWith, if_neg (not_not.2 h), ht]
      rfl
    | ok =>
      refine .inr ⟨h, rfl, ?_⟩
      simp only [dgramWriteWith, if_neg (not_not.2 h), ht]
  · exact .inl ⟨h, if_pos h⟩

/-- DGRAM_READ_REQUEST. -/
theorem dgramReadRequestWith_cases (n : BitVec 2) (r : BitVec 7) (c : Byte) :
    (c ≠ crc8 P.crcVariant (readBody n r) ∧
      dgramReadRequestWith P n r c s = .next (s.replied [0x01#8])) ∨
    (c = crc8 P.crcVariant (readBody n r) ∧
      let sent := s.transmit (readBody n r ++ [c])
      let got := sent.receive P.replyLayout.len P.rxTimeout
      (s.txAnswer = .ioError ∧ dgramReadRequestWith P n r c s = .next (sent.replied [0x02#8])) ∨
      (s.txAnswer = .ok ∧ s.rxAnswer P.replyLayout.len = none ∧
        dgramReadRequestWith P n r c s = .next (got.replied [0x02#8])) ∨
      ∃ y, s.txAnswer = .ok ∧ s.rxAnswer P.replyLayout.len = some y ∧
        ((parse P y = none ∧ dgramReadRequestWith P n r c s = .next (got.replied [0x01#8])) ∨
        ∃ a r' d, parse P y = some (a, r', d) ∧
          dgramReadRequestWith P n r c s =
            .next (got.replied (0x00#8 :: a :: r' :: be32 d)))) := by
  by_cases h : c = crc8 P.crcVariant (readBody n r)
  · refine .inr ⟨h, ?_⟩
    intro sent got
    cases ht : s.txAnswer with
    | ioError =>
      refine .inl ⟨rfl, ?_⟩
      simp only [dgramReadRequestWith, if_neg (not_not.2 h), ht]
      rfl
    | ok =>
      refine .inr ?_
      cases hr : s.rxAnswer P.replyLayout.len with
      | none =>
        refine .inl ⟨rfl, rfl, ?_⟩
        simp only [dgramReadRequestWith, if_neg (not_not.2 h), ht, State.transmit_rxAnswer, hr]
        rfl
      | some y =>
        refine .inr ⟨y, rfl, rfl, ?_⟩
        have e : dgramReadRequestWith P n r c s = got.finishReply P y := by
          simp only [dgramReadRequestWith, if_neg (not_not.2 h), ht, State.transmit_rxAnswer, hr]
          rfl
        rw [e]
        exact got.finishReply_cases P y
  · exact .inl ⟨h, if_pos h⟩

/-- DGRAM_READ_REPLY. -/
theorem dgramReadReplyWith_cases (p : List Byte) :
    (p.length ≠ P.replyLayout.len ∧ dgramReadReplyWith P p s = .next s) ∨
    (p.length = P.replyLayout.len ∧ parse P p = none ∧
      dgramReadReplyWith P p s = .next (s.replied [0x01#8])) ∨
    ∃ a r d, p.length = P.replyLayout.len ∧ parse P p = some (a, r, d) ∧
      dgramReadReplyWith P p s = .next (s.replied (0x00#8 :: a :: r :: be32 d)) := by
  by_cases h : p.length = P.replyLayout.len
  · have e : dgramReadReplyWith P p s = s.finishReply P p := if_neg (not_not.2 h)
    rw [e]
    rcases s.finishReply_cases P p with ⟨h1, h2⟩ | ⟨a, r, d, h1, h2⟩
    · exact .inr (.inl ⟨h, h1, h2⟩)
    · exact .inr (.inr ⟨a, r, d, h, h1, h2⟩)
  · exact .inl ⟨h, if_pos h⟩

end Sys2Proof.Machine
end

