-- ==== Sys2Proof/Laws/Decode.lean ====
section
/-! SUPPORT. What the frame decoder does at an opcode, and which frames it rejects. -/

namespace Sys2Proof.Machine

/-- A frame that begins with the byte of an opcode is decoded by its operands. -/
theorem decodeFrame_opcode (P : Params) (o : Opcode) (args : List Byte) :
    decodeFrame P (opcodeByte o :: args) = decodeOperands P o args := by
  cases o <;> rfl

/-- The opcode map is the inverse of `opcodeByte` (R47). -/
theorem opcodeOf?_some (b : Byte) (o : Opcode) (h : opcodeOf? b = some o) : b = opcodeByte o := by
  have key : ∀ b : Byte, (match opcodeOf? b with
      | none => true
      | some o => b == opcodeByte o) = true := by decide
  have hb := key b
  rw [h] at hb
  simpa using hb

/-- The reserved opcodes (R50). -/
theorem opcodeOf?_reserved (b : Byte) (h : b = 0 ∨ 0x0D ≤ b.toNat) : opcodeOf? b = none := by
  revert b; decide

/-- Another length than R48 requires is an error, for every opcode of fixed length. -/
theorem decodeOperands_wrongLength (P : Params) (o : Opcode) (args : List Byte) (hc : o ≠ .calcCrc)
    (h : args.length + 1 ≠ requiredLength P o 0) : ∃ e, decodeOperands P o args = .error e := by
  cases o <;> simp only [decodeOperands, requiredLength] at *
  case calcCrc => exact absurd rfl hc
  case parseReply => rw [if_neg (by omega)]; exact ⟨_, rfl⟩
  all_goals
    split
    · simp at h
    · exact ⟨_, rfl⟩

/-- A step on a command frame that decodes to an error (R49). -/
theorem step_undecodable (s : State) (f : List Byte) (rest : List Input) (e : DecodeError)
    (h : s.inbox = .packet (.command f) :: rest) (hd : decodeFrame blockParams f = .error e) :
    step s = .next (State.replied [0x06#8] { s with inbox := rest }) := by
  unfold step stepVia
  rw [h]
  simp only [decodePacket, hd]
  unfold State.dropInput
  rw [h]
  rfl

end Sys2Proof.Machine
end

