-- ==== Sys2Proof/Laws/PerInstr.lean ====
section
/-! SUPPORT. How many bytes each instruction encodes to (spec/30_encoding.md R48, R55, R56, R57). -/

namespace Sys2Proof.Laws.EncodedLength

open Sys2Proof.Machine

/-- The length spec/30_encoding.md gives the encoding: R48 for a command, R55 to R57 for a datagram. -/
def lengthOf (i : Instr) : Nat :=
  match i with
  | .init _ _ => 4
  | .calcCrc d => 2 + d.length
  | .maskFor _ => 2
  | .buildWrite _ _ _ => 7
  | .buildRead _ _ => 3
  | .parseReply _ => 8
  | .readAccess _ => 2
  | .writeAccess _ _ => 6
  | .setSpeed _ => 5
  | .setAngle _ => 5
  | .setMicrostep _ => 2
  | .setEnable _ => 2
  | .dgramWrite _ _ _ _ => 9
  | .dgramReadRequest _ _ _ => 5
  | .dgramReadReply _ => 7

/-- A well-formed instruction encodes to as many bytes as the spec gives it, at most 257. -/
def Statement (i : Instr) : Prop :=
  i.wf = true → (encodeBytes i).length = lengthOf i ∧ lengthOf i ≤ 257

theorem init (n : Byte) (steps : BitVec 16) : Statement (.init n steps) :=
  fun _ => ⟨rfl, by simp [lengthOf]⟩

theorem calcCrc (d : List Byte) : Statement (.calcCrc d) := by
  intro h
  have hd : d.length ≤ 255 := by simpa [Instr.wf, Instr.wfWith] using h
  exact ⟨by simp [encodeBytes, lengthOf]; omega, by simp only [lengthOf]; omega⟩

theorem maskFor (r : Byte) : Statement (.maskFor r) := fun _ => ⟨rfl, by simp [lengthOf]⟩

theorem buildWrite (n r : Byte) (d : Word) : Statement (.buildWrite n r d) :=
  fun _ => ⟨rfl, by simp [lengthOf]⟩

theorem buildRead (n r : Byte) : Statement (.buildRead n r) := fun _ => ⟨rfl, by simp [lengthOf]⟩

theorem parseReply (p : List Byte) : Statement (.parseReply p) := by
  intro h
  have hp : p.length = 7 := of_decide_eq_true h
  exact ⟨by simp [encodeBytes, lengthOf, hp], by simp [lengthOf]⟩

theorem readAccess (r : Byte) : Statement (.readAccess r) := fun _ => ⟨rfl, by simp [lengthOf]⟩

theorem writeAccess (r : Byte) (v : Word) : Statement (.writeAccess r v) :=
  fun _ => ⟨rfl, by simp [lengthOf]⟩

theorem setSpeed (q : Word) : Statement (.setSpeed q) := fun _ => ⟨rfl, by simp [lengthOf]⟩

theorem setAngle (a : Word) : Statement (.setAngle a) := fun _ => ⟨rfl, by simp [lengthOf]⟩

theorem setMicrostep (m : Byte) : Statement (.setMicrostep m) := fun _ => ⟨rfl, by simp [lengthOf]⟩

theorem setEnable (e : Byte) : Statement (.setEnable e) := fun _ => ⟨rfl, by simp [lengthOf]⟩

theorem dgramWrite (n : BitVec 2) (r : BitVec 7) (d : Word) (c : Byte) :
    Statement (.dgramWrite n r d c) := fun _ => ⟨rfl, by simp [lengthOf]⟩

theorem dgramReadRequest (n : BitVec 2) (r : BitVec 7) (c : Byte) :
    Statement (.dgramReadRequest n r c) := fun _ => ⟨rfl, by simp [lengthOf]⟩

theorem dgramReadReply (p : List Byte) : Statement (.dgramReadReply p) := by
  intro h
  have hp : p.length = 7 := of_decide_eq_true h
  exact ⟨by simp [encodeBytes, lengthOf, hp], by simp [lengthOf]⟩

end Sys2Proof.Laws.EncodedLength
end

