-- ==== Sys2Proof/Laws/Steps.lean ====
section
/-! SUPPORT. Everything one step can do, and how a run of the core is made of steps. -/

namespace Sys2Proof.Machine

/-- Every way a step takes its next input: it waits, it resets, it does not see bytes on the line, it
rejects a packet, or it runs the packet's instruction. -/
theorem step_cases (s : State) :
    (s.inbox = [] ∧ step s = .next s) ∨
    (∃ rest, s.inbox = .reset :: rest ∧ step s = .next s.dropInput.applyReset) ∨
    (∃ b rest, s.inbox = .line b :: rest ∧ step s = .next s.dropInput) ∨
    (∃ f rest e, s.inbox = .packet (.command f) :: rest ∧ decode (.command f) = .error e ∧
      step s = .next (s.dropInput.replied [0x06#8])) ∨
    (∃ p rest e, s.inbox = .packet p :: rest ∧ decode p = .error e ∧ (∀ f, p ≠ .command f) ∧
      step s = .next s.dropInput) ∨
    ∃ p rest i, s.inbox = .packet p :: rest ∧ decode p = .ok i ∧ step s = exec i s.dropInput := by
  unfold step stepVia
  cases h : s.inbox with
  | nil => exact .inl ⟨rfl, rfl⟩
  | cons x rest =>
    cases x with
    | reset => exact .inr (.inl ⟨rest, rfl, rfl⟩)
    | line b => exact .inr (.inr (.inl ⟨b, rest, rfl, rfl⟩))
    | packet p =>
      refine .inr (.inr (.inr ?_))
      cases hd : decodePacket blockParams p with
      | ok i => exact .inr (.inr ⟨p, rest, i, rfl, hd, by simp only [hd]⟩)
      | error e =>
        cases p with
        | command f => exact .inl ⟨f, rest, e, rfl, hd, by simp only [hd]; rfl⟩
        | toSend b =>
          exact .inr (.inl ⟨.toSend b, rest, e, rfl, hd, by simp, by simp only [hd]; rfl⟩)
        | toParse b =>
          exact .inr (.inl ⟨.toParse b, rest, e, rfl, hd, by simp, by simp only [hd]; rfl⟩)

/-- One more step in front of a run, for any machine of the host's interface. -/
theorem run_next (M : Host.Core) (k : Nat) (s t : M.State) (h : M.step s = .next t) :
    M.run (k + 1) s = M.run k t := by
  simp only [Host.Core.run, h]

/-- One more step in front of a run of this block. -/
theorem core_run_next (k : Nat) (s t : State) (h : step s = .next t) :
    Host.Core.run Sys2Proof.core (k + 1) s = Host.Core.run Sys2Proof.core k t :=
  run_next Sys2Proof.core k s t h

end Sys2Proof.Machine
end

