-- ==== Sys2Proof/Tests/Slice0.lean ====
section
/-! SUPPORT. Tests. The expected values are those of spec/95_test_vectors.md and of the rules'
examples and corner cases. The `witness_` theorems show states and operands that meet the hypotheses
of the statement they name, each clause of it. -/

namespace Sys2Proof.Tests

open Sys2Proof.Machine

set_option maxRecDepth 8000

/-! ### Small states -/

/-- A handle in Ready: node `n`, 200 steps, microstep `m`, its clock constant, and a CHOPCONF shadow. -/
def readyHandle (n : BitVec 2) (m : BitVec 4) (chopconf : Word) : Handle :=
  { hs := .ready, nodeAddr := n, engineSteps := 200, microstep := m,
    clockConst := clockConstOf blockParams 200 m.toNat,
    shadowGconf := 0, shadowNodeconf := 0, shadowChopconf := chopconf }

/-- "Ready 200/8 node 0", with the UART's answers. -/
def ready (tx : List TxAnswer) (rx : List RxAnswer) : State :=
  { State.reset with handle := readyHandle 0 8 0, txAnswers := tx, rxAnswers := rx }

/-- Ready on node 1 with the CHOPCONF shadow 0x10000053, with the UART's answers. -/
def ready1 (tx : List TxAnswer) (rx : List RxAnswer) : State :=
  { State.reset with handle := readyHandle 1 8 0x10000053, txAnswers := tx, rxAnswers := rx }

/-- Reset with one packet waiting. -/
def waiting (p : Packet) : State := { State.reset with inbox := [.packet p] }

/-- The last event of a next state. -/
def lastEvent (o : Out) : Option Event :=
  match o with
  | .next t => t.trace.getLast?
  | .fault _ => none
  | .refused _ => none

/-- The first event of a next state. -/
def firstEvent (o : Out) : Option Event :=
  match o with
  | .next t => t.trace.head?
  | .fault _ => none
  | .refused _ => none

/-- The handle of a next state. -/
def handleOf (o : Out) : Option Handle :=
  match o with
  | .next t => some t.handle
  | .fault _ => none
  | .refused _ => none

/-! ### WellFormed: each check refuses an ill-formed term -/

theorem test_wf_refuses_256_crc_bytes : (Instr.calcCrc (List.replicate 256 0)).wf = false := by
  decide

theorem test_wf_refuses_short_reply_operand :
    (Instr.parseReply [0x01, 0x6C, 0x10, 0x00, 0x00, 0x53]).wf = false := by decide

theorem test_wf_refuses_unsealed_write : (Instr.dgramWrite 0 0x00 0xC0 0x58).wf = false := by decide

theorem test_wf_refuses_unsealed_request : (Instr.dgramReadRequest 0 0x00 0x80).wf = false := by
  decide

theorem test_wf_refuses_long_reply :
    (Instr.dgramReadReply [0x00, 0x41, 0x00, 0x00, 0x01, 0xF4, 0xF5, 0x00]).wf = false := by decide

/-! ### Decode: words written out from spec/30_encoding.md R48, R55, R56, R57 -/

theorem test_decode_init : decode (.command [0x01, 0x03, 0x12, 0x34]) = .ok (.init 3 0x1234) := by
  decide
theorem test_decode_calcCrc :
    decode (.command [0x02, 0x03, 0xAA, 0xBB, 0xCC]) = .ok (.calcCrc [0xAA, 0xBB, 0xCC]) := by decide
theorem test_decode_maskFor : decode (.command [0x03, 0x41]) = .ok (.maskFor 0x41) := by decide
theorem test_decode_buildWrite :
    decode (.command [0x04, 0x02, 0x80, 0x12, 0x34, 0x56, 0x78]) =
      .ok (.buildWrite 2 0x80 0x12345678) := by decide
theorem test_decode_buildRead : decode (.command [0x05, 0x03, 0x41]) = .ok (.buildRead 3 0x41) := by
  decide
theorem test_decode_parseReply :
    decode (.command [0x06, 0x01, 0x6C, 0x10, 0x00, 0x00, 0x53, 0x06]) =
      .ok (.parseReply [0x01, 0x6C, 0x10, 0x00, 0x00, 0x53, 0x06]) := by decide
theorem test_decode_readAccess : decode (.command [0x07, 0x6C]) = .ok (.readAccess 0x6C) := by decide
theorem test_decode_writeAccess :
    decode (.command [0x08, 0xEC, 0x12, 0x34, 0x56, 0x78]) = .ok (.writeAccess 0xEC 0x12345678) := by
  decide
theorem test_decode_setSpeed :
    decode (.command [0x09, 0xFF, 0xC4, 0x00, 0x01]) = .ok (.setSpeed 0xFFC40001) := by decide
theorem test_decode_setAngle :
    decode (.command [0x0A, 0x00, 0xB4, 0x80, 0x01]) = .ok (.setAngle 0x00B48001) := by decide
theorem test_decode_setMicrostep : decode (.command [0x0B, 0x04]) = .ok (.setMicrostep 4) := by decide
theorem test_decode_setEnable : decode (.command [0x0C, 0x7F]) = .ok (.setEnable 0x7F) := by decide
theorem test_decode_dgramWrite :
    decode (.toSend [0x05, 0x00, 0x03, 0x83, 0x00, 0x00, 0x02, 0x00, 0x1B]) =
      .ok (.dgramWrite 3 0x03 0x200 0x1B) := by decide
theorem test_decode_dgramReadRequest :
    decode (.toSend [0x05, 0x00, 0x01, 0x6C, 0x83]) = .ok (.dgramReadRequest 1 0x6C 0x83) := by
  decide
theorem test_decode_dgramReadReply :
    decode (.toParse [0x01, 0x6C, 0x10, 0x00, 0x00, 0x53, 0x06]) =
      .ok (.dgramReadReply [0x01, 0x6C, 0x10, 0x00, 0x00, 0x53, 0x06]) := by decide

/-- What R49 and R50 reject. -/
theorem test_decode_rejects :
    decode (.command []) = .error .emptyFrame ∧
    decode (.command [0x00]) = .error (.reservedOpcode 0x00) ∧
    decode (.command [0x0D, 0x01]) = .error (.reservedOpcode 0x0D) ∧
    decode (.command [0x02]) = .error .missingCount ∧
    decode (.command [0x02, 0x03, 0x01, 0x02]) = .error .wrongLength ∧
    decode (.command [0x01, 0x00, 0x00, 0xC8, 0x00]) = .error .wrongLength := by decide

/-- Words of the opcode table: a whole one, and one whose operand bytes are zeros. -/
theorem test_table_words :
    decodeTableWord 32 0xC8000301 = some (.init 3 0x00C8) ∧
    decodeTableWord 8 0x08 = some (.writeAccess 0 0) ∧
    decodeTableWord 72 0x1B0002000083030005 = some (.dgramWrite 3 0x03 0x200 0x1B) ∧
    decodeTableWord 32 0x80000005 = some (.dgramWrite 0 0 0 0) ∧
    decodeTableWord 40 0x836C010005 = some (.dgramReadRequest 1 0x6C 0x83) ∧
    decodeTableWord 56 0x06530000106C00 =
      some (.dgramReadReply [0x00, 0x6C, 0x10, 0x00, 0x00, 0x53, 0x06]) := by decide

/-- A word put where the next instruction is taken is run by the next step. -/
theorem test_fetch_word_runs :
    handleOf (step (State.reset.withFetchWord 32 0xC8000301)) =
      some (Handle.initialised blockParams 3 200) := by rfl

/-! ### One step of each instruction -/

/-- INIT 0, 200: the example of R90. -/
theorem test_init_sets_the_handle :
    handleOf (exec (.init 0 200) State.reset) =
      some ⟨.ready, 0, 200, 8, 305420, 0, 0, 0⟩ := by decide

/-- `01 80 00 C8`. -/
theorem test_init_refuses_a_node_byte :
    lastEvent (exec (.init 0x80 200) State.reset) = some (.respond [0x07]) := by decide

/-- `02 08 05 00 00 80 00 00 00 C0`. -/
theorem test_calcCrc_of_a_write_body :
    lastEvent (exec (.calcCrc [0x05, 0x00, 0x00, 0x80, 0x00, 0x00, 0x00, 0xC0]) State.reset) =
      some (.respond [0x00, 0x57]) := by decide

/-- `02 00`. -/
theorem test_calcCrc_refuses_no_bytes :
    lastEvent (step (waiting (.command [0x02, 0x00]))) = some (.respond [0x07]) := by decide

/-- MASK_FOR R_CHOPCONF. -/
theorem test_maskFor_chopconf :
    lastEvent (exec (.maskFor 0x6C) State.reset) =
      some (.respond [0x00, 0x0F, 0x00, 0x00, 0x00, 0x18]) := by decide

/-- A writable rid with the address of a readable one. -/
theorem test_maskFor_refuses_writable :
    lastEvent (exec (.maskFor 0xEC) State.reset) = some (.respond [0x07]) := by decide

/-- `04 00 A2 FF FF FF FF`: the mask is not applied. -/
theorem test_buildWrite_does_not_mask :
    lastEvent (exec (.buildWrite 0 0xA2 0xFFFFFFFF) State.reset) =
      some (.respond [0x00, 0x05, 0x00, 0x00, 0xA2, 0xFF, 0xFF, 0xFF, 0xFF, 0x6B]) := by decide

/-- `04 04 80 00 00 00 00`. -/
theorem test_buildWrite_refuses_node_four :
    lastEvent (exec (.buildWrite 4 0x80 0) State.reset) = some (.respond [0x07]) := by decide

/-- `05 03 41`. -/
theorem test_buildRead_node_three :
    lastEvent (exec (.buildRead 3 0x41) State.reset) =
      some (.respond [0x00, 0x05, 0x00, 0x03, 0x41, 0xCC]) := by decide

/-- `05 00 01`: not in the table. -/
theorem test_buildRead_refuses_unknown :
    lastEvent (exec (.buildRead 0 0x01) State.reset) = some (.respond [0x07]) := by decide

/-- A node echo of 0xFF is accepted. -/
theorem test_parseReply_accepts_any_echo :
    lastEvent (exec (.parseReply [0xFF, 0x6C, 0x14, 0x00, 0x00, 0x53, 0x69]) State.reset) =
      some (.respond [0x00, 0xFF, 0x6C, 0x14, 0x00, 0x00, 0x53]) := by decide

/-- The payload's low bit flipped (E8). -/
theorem test_parseReply_finds_a_flipped_bit :
    lastEvent (exec (.parseReply [0x01, 0x6C, 0x10, 0x00, 0x00, 0x52, 0x06]) State.reset) =
      some (.respond [0x01]) := by decide

/-- `07 41` with payload 0x12345678: the field is 0x278. -/
theorem test_readAccess_extracts :
    lastEvent (exec (.readAccess 0x41)
      (ready [.ok] [.bytes [0x00, 0x41, 0x12, 0x34, 0x56, 0x78, 0xBC]])) =
      some (.respond [0x00, 0x00, 0x00, 0x02, 0x78, 0x00, 0x41, 0x12, 0x34, 0x56, 0x78, 0xBC,
        0x05, 0x00, 0x00, 0x41, 0x99]) := by decide

/-- `07 6C` with the echo of another register: the requested shadow is refreshed (R87). -/
theorem test_readAccess_ignores_the_echo :
    (handleOf (exec (.readAccess 0x6C)
      (ready [.ok] [.bytes [0x00, 0x41, 0x00, 0x00, 0x01, 0xF4, 0xF5]]))).map (·.shadowChopconf) =
      some 0x000001F4 := by decide

/-- `08 EC 00 00 00 04` on node 1: MICROSTEP stays. -/
theorem test_writeAccess_merges :
    firstEvent (exec (.writeAccess 0xEC 4) (ready1 [.ok] [])) =
      some (.transmit [0x05, 0x00, 0x01, 0xEC, 0x14, 0x00, 0x00, 0x53, 0x95]) ∧
    handleOf (exec (.writeAccess 0xEC 4) (ready1 [.ok] [])) =
      some (readyHandle 1 8 0x14000053) := by decide

/-- A failed Transmit keeps the shadow (R85). -/
theorem test_writeAccess_keeps_the_shadow_on_failure :
    lastEvent (exec (.writeAccess 0x80 0xC0) (ready [.ioError] [])) = some (.respond [0x02]) ∧
    handleOf (exec (.writeAccess 0x80 0xC0) (ready [.ioError] [])) = some (readyHandle 0 8 0) := by
  decide

/-- SET_SPEED -60: the field's two's complement. -/
theorem test_setSpeed_reverse :
    firstEvent (exec (.setSpeed 0xFFC40000) (ready [.ok] [])) =
      some (.transmit [0x05, 0x00, 0x00, 0xA2, 0x00, 0xFF, 0xFE, 0xE8, 0x5A]) := by decide

/-- The tie -1221679.5 at microstep 5 rounds away from zero. -/
theorem test_setSpeed_tie :
    firstEvent (exec (.setSpeed 0x80000000)
      { ready [.ok] [] with handle := readyHandle 0 5 0 }) =
      some (.transmit [0x05, 0x00, 0x00, 0xA2, 0x00, 0xED, 0x5B, 0xD0, 0x32]) := by decide

/-- SET_ANGLE 4.5: 2.5 steps round up to 3. -/
theorem test_setAngle_tie :
    lastEvent (exec (.setAngle 0x00048000) (ready [] [])) =
      some (.respond [0x00, 0x00, 0x00, 0x00, 0x03]) := by decide

/-- SET_ANGLE 359.99998: 200 steps are a whole turn, so the timer is stopped. -/
theorem test_setAngle_wraps :
    firstEvent (exec (.setAngle 0x0167FFFF) (ready [] [])) = some .timerStop := by decide

/-- `0B 04` on node 1. -/
theorem test_setMicrostep_four :
    handleOf (exec (.setMicrostep 4) (ready1 [.ok] [])) = some (readyHandle 1 4 0x14000053) ∧
    (readyHandle 1 4 0x14000053).clockConst = 4886718 := by decide

/-- `0B 09`: InvalidState stands before InvalidArgument. -/
theorem test_setMicrostep_nine :
    lastEvent (exec (.setMicrostep 9) (ready [] [])) = some (.respond [0x07]) ∧
    lastEvent (exec (.setMicrostep 9) State.reset) = some (.respond [0x03]) := by decide

/-- `0C 01`. -/
theorem test_setEnable_is_unsupported :
    lastEvent (step (waiting (.command [0x0C, 0x01]))) = some (.respond [0x05]) := by decide

/-- A sealed write datagram is transmitted, and nothing answers it. -/
theorem test_dgramWrite_transmits :
    lastEvent (exec (.dgramWrite 3 0x03 0x200 0x1B) (ready [.ok] [])) =
      some (.transmit [0x05, 0x00, 0x03, 0x83, 0x00, 0x00, 0x02, 0x00, 0x1B]) := by decide

/-- A read request brings the fields of its reply. -/
theorem test_dgramReadRequest_answers :
    lastEvent (exec (.dgramReadRequest 0 0x41 0x99)
      (ready [.ok] [.bytes [0x00, 0x41, 0x00, 0x00, 0x01, 0xF4, 0xF5]])) =
      some (.respond [0x00, 0x00, 0x41, 0x00, 0x00, 0x01, 0xF4]) := by decide

/-- A read reply is parsed. -/
theorem test_dgramReadReply_parses :
    lastEvent (exec (.dgramReadReply [0x00, 0x41, 0x00, 0x00, 0x01, 0xF4, 0xF5]) State.reset) =
      some (.respond [0x00, 0x00, 0x41, 0x00, 0x00, 0x01, 0xF4]) := by decide

/-! ### The functional units -/

/-- The check string under the three variants. -/
theorem test_crc_check_string :
    let s := [0x31, 0x32, 0x33, 0x34, 0x35, 0x36, 0x37, 0x38, 0x39]
    crc8 .refl8C s = 0xA1 ∧ crc8 .reflE0 s = 0x20 ∧ crc8 .tmcL07 s = 0x04 := by decide

/-- The bounds of the accepted velocities at microstep 0, and one beyond each. -/
theorem test_velocity_bounds :
    velocity blockParams 460799969 78187494 = some 8388607 ∧
    velocity blockParams 460799970 78187494 = none ∧
    velocity blockParams (-460800024) 78187494 = some (-8388608) ∧
    velocity blockParams (-460800025) 78187494 = none := by decide

/-- Step counts of the table. -/
theorem test_angle_steps :
    angleSteps 0x00B40000 200 8 = 100 ∧ angleSteps 0xFFFFFFFF 200 8 = 9 ∧
    angleSteps 0x00010000 65535 0 = 46603 ∧ angleSteps 0x010E0000 400 7 = 600 := by decide

/-- The assembler takes the spec's lines, and refuses a number it would round. -/
theorem test_assembler :
    assembleLine blockParams "WRITE_ACCESS W_CHOPCONF, 4".toList = some (.writeAccess 0xEC 4) ∧
    assembleLine blockParams "SET_ANGLE 4.5".toList = some (.setAngle 0x00048000) ∧
    assembleLine blockParams "SET_SPEED -60".toList = some (.setSpeed 0xFFC40000) ∧
    assembleLine blockParams "CALC_CRC [0x01, 5E]".toList = some (.calcCrc [0x01, 0x5E]) ∧
    assembleLine blockParams "SET_SPEED 0.1".toList = none := by decide

/-! ### Witnesses of the statements' hypotheses -/

theorem witness_StepRunsTheDecodedInstruction :
    (waiting (.command [0x0C, 0x01])).inbox = .packet (.command [0x0C, 0x01]) :: [] ∧
    decode (.command [0x0C, 0x01]) = .ok (.setEnable 1) ∧ (Instr.setEnable 1).wf = true := by decide

/-- Each clause at its boundary: the empty frame, 0x00, 0x0D, one byte less and one more than the
required length, no count, one byte less and one more than the count. -/
theorem witness_MalformedFramesRaiseIllegalCommand :
    (waiting (.command [0x0D])).inbox = .packet (.command [0x0D]) :: [] ∧
    [0x00#8].head? = some 0x00#8 ∧ 0x0D ≤ (0x0D#8).toNat ∧ 0x0D ≤ (0xFF#8).toNat ∧
    [0x01#8, 0x00#8, 0x00#8].length ≠ 4 ∧ [0x01#8, 0x00#8, 0x00#8, 0xC8#8, 0x00#8].length ≠ 4 ∧
    [0x0C#8].length ≠ 2 ∧ [0x0C#8, 0x00#8, 0x00#8].length ≠ 2 ∧
    [0xAA#8].length ≠ (0x02#8).toNat ∧ [0xAA#8].length ≠ (0x00#8).toNat := by decide

/-- The checks of WellFormed at their boundaries. -/
theorem witness_DecodeInvertsEncode :
    (Instr.calcCrc (List.replicate 255 0)).wfWith blockParams = true ∧
    (Instr.calcCrc []).wfWith blockParams = true ∧
    (Instr.parseReply (List.replicate 7 0)).wfWith blockParams = true ∧
    (Instr.dgramWrite 3 0x03 0x200 0x1B).wfWith blockParams = true ∧
    (Instr.dgramReadRequest 1 0x6C 0x83).wfWith blockParams = true := by decide

theorem witness_EncodeInvertsDecode :
    decodePacket blockParams (.toSend [0x05, 0x00, 0x01, 0x6C, 0x83]) =
      .ok (.dgramReadRequest 1 0x6C 0x83) := by decide

theorem witness_CalcCrcAnswersTheChecksum :
    [0xAA#8].length = (0x01#8).toNat ∧ ([] : List Byte).length = (0x00#8).toNat ∧
    (waiting (.command [0x02#8])).inbox = .packet (.command [0x02#8]) :: [] ∧
    (∀ n d, ([] : List Byte) = n :: d → d.length ≠ n.toNat) ∧
    (∀ n d, [0x02#8, 0xAA#8] = n :: d → d.length ≠ n.toNat) ∧
    [0x00#8] ≠ [] ∧ [0x00#8].length ≤ 255 ∧
    List.replicate 255 0x00#8 ≠ [] ∧ (List.replicate 255 0x00#8).length ≤ 255 :=
  ⟨rfl, rfl, rfl, fun _ _ h => (by cases h), fun _ _ h => (by cases h; decide), by decide, by decide,
    by decide, by decide⟩

/-- A frame of another length, for each opcode of fixed length: one byte less and one byte more. -/
theorem witness_RefusesOtherLengths :
    ∀ e ∈ [(0x01#8, 4), (0x03#8, 2), (0x04#8, 7), (0x05#8, 3), (0x06#8, 8), (0x07#8, 2), (0x08#8, 6),
        (0x09#8, 5), (0x0A#8, 5), (0x0B#8, 2), (0x0C#8, 2)],
      let less := List.replicate (e.2 - 2) 0x00#8
      let more := List.replicate e.2 0x00#8
      (waiting (.command (e.1 :: less))).inbox = .packet (.command (e.1 :: less)) :: [] ∧
        less.length + 1 ≠ e.2 ∧
      (waiting (.command (e.1 :: more))).inbox = .packet (.command (e.1 :: more)) :: [] ∧
        more.length + 1 ≠ e.2 := by decide

theorem witness_MaskForAnswersMaskAndShift :
    0x01#8 ≠ 0x00#8 ∧ 0x01#8 ≠ 0x41#8 ∧ 0x01#8 ≠ 0x6C#8 ∧
    0xFF#8 ≠ 0x00#8 ∧ 0xFF#8 ≠ 0x41#8 ∧ 0xFF#8 ≠ 0x6C#8 := by decide

theorem witness_BuildWriteAnswersTheDatagram :
    ¬(4 ≤ (3#8).toNat ∨ 0xEC#8 ∉ [0x80#8, 0x83#8, 0xA2#8, 0xEC#8]) ∧
    (4 ≤ (4#8).toNat ∨ 0xEC#8 ∉ [0x80#8, 0x83#8, 0xA2#8, 0xEC#8]) ∧
    (4 ≤ (3#8).toNat ∨ 0x6C#8 ∉ [0x80#8, 0x83#8, 0xA2#8, 0xEC#8]) := by decide

theorem witness_BuildReadAnswersTheRequest :
    ¬(4 ≤ (3#8).toNat ∨ 0x6C#8 ∉ [0x00#8, 0x41#8, 0x6C#8]) ∧
    (4 ≤ (4#8).toNat ∨ 0x6C#8 ∉ [0x00#8, 0x41#8, 0x6C#8]) ∧
    (4 ≤ (3#8).toNat ∨ 0xEC#8 ∉ [0x00#8, 0x41#8, 0x6C#8]) := by decide

theorem witness_ParseReplyChecksAndDecodes :
    [0x01#8, 0x6C#8, 0x10#8, 0x00#8, 0x00#8, 0x53#8, 0x06#8].length = 7 ∧
    0x06#8 = crc8 .refl8C [0x01#8, 0x6C#8, 0x10#8, 0x00#8, 0x00#8, 0x53#8] ∧
    0x07#8 ≠ crc8 .refl8C [0x01#8, 0x6C#8, 0x10#8, 0x00#8, 0x00#8, 0x53#8] := by decide

theorem witness_ReadAccessReadsAField :
    State.reset.handle.hs = .uninitialized ∧ (ready [] []).handle.hs = .ready ∧
    0x01#8 ∉ [0x00#8, 0x41#8, 0x6C#8] ∧ 0x6C#8 ∈ [0x00#8, 0x41#8, 0x6C#8] ∧
    (ready [.ioError] []).txAnswer = .ioError ∧
    (ready [.ok] [.ioError]).txAnswer = .ok ∧ (ready [.ok] [.ioError]).rxAnswer 7 = none ∧
    (ready [.ok] [.bytes [0x01, 0x6C, 0x10, 0x00, 0x00, 0x53, 0x06]]).rxAnswer 7 =
      some [0x01, 0x6C, 0x10, 0x00, 0x00, 0x53, 0x06] :=
  ⟨rfl, rfl, by decide, by decide, rfl, rfl, rfl, rfl⟩

theorem witness_WriteAccessMergesAndSends :
    State.reset.handle.hs = .uninitialized ∧ (ready [] []).handle.hs = .ready ∧
    0x81#8 ∉ [0x80#8, 0x83#8, 0xA2#8, 0xEC#8] ∧ 0x80#8 ∈ [0x80#8, 0x83#8, 0xA2#8, 0xEC#8] ∧
    (ready [.ioError] []).txAnswer = .ioError ∧ (ready [.ok] []).txAnswer = .ok := by decide

theorem witness_InitSetsEveryHandleField : 4 ≤ (4#8).toNat ∧ ¬ 4 ≤ (3#8).toNat := by decide

theorem witness_SetMicrostepSendsMresAndUpdates :
    State.reset.handle.hs = .uninitialized ∧ (ready [] []).handle.hs = .ready ∧
    8 < (9#8).toNat ∧ (8#8).toNat ≤ 8 ∧ (0#8).toNat ≤ 8 ∧
    (ready [.ioError] []).txAnswer = .ioError ∧ (ready [.ok] []).txAnswer = .ok := by decide

/-- With the bounds of `test_velocity_bounds`. -/
theorem witness_SetSpeedSendsVactual :
    State.reset.handle.hs = .uninitialized ∧
    ({ ready [.ok] [] with handle := readyHandle 0 0 0 }).handle.hs = .ready ∧
    ({ ready [.ok] [] with handle := readyHandle 0 0 0 }).handle.clockConst.toNat = 78187494 ∧
    (460799969#32).toInt = 460799969 ∧ (0xE488BFE8#32).toInt = -460800024 ∧
    (ready [.ioError] []).txAnswer = .ioError ∧ (ready [.ok] []).txAnswer = .ok := by decide

theorem witness_SetAngleStartsTheTimer :
    State.reset.handle.hs = .uninitialized ∧ (ready [] []).handle.hs = .ready ∧
    (ready [] []).handle.microstep.toNat ≤ 8 ∧ (readyHandle 0 0 0).microstep.toNat ≤ 8 := by decide

theorem witness_WriteDatagramIsTransmitted :
    0x57#8 = crc8 .refl8C ([0x05#8, 0x00#8, (0 : BitVec 2).setWidth 8,
      (0 : BitVec 7).setWidth 8 ||| 0x80#8] ++ be32 0xC0) ∧
    (ready [.ok] []).txAnswer = .ok ∧ (ready [.ioError] []).txAnswer = .ioError := by decide

theorem witness_ReadRequestBringsAReply :
    0x81#8 = crc8 .refl8C [0x05#8, 0x00#8, (0 : BitVec 2).setWidth 8, (0 : BitVec 7).setWidth 8] ∧
    (ready [.ioError] []).txAnswer = .ioError ∧
    (ready [.ok] [.ioError]).txAnswer = .ok ∧ (ready [.ok] [.ioError]).rxAnswer 7 = none ∧
    (ready [.ok] [.bytes [0x00, 0x00, 0x00, 0x00, 0x01, 0xC0, 0x0E]]).rxAnswer 7 =
      some [0x00, 0x00, 0x00, 0x00, 0x01, 0xC0, 0x0E] :=
  ⟨by decide, rfl, rfl, rfl, rfl⟩

theorem witness_ReadReplyIsParsed :
    0x0E#8 = crc8 .refl8C [0x00#8, 0x00#8, 0x00#8, 0x00#8, 0x01#8, 0xC0#8] ∧
    0x0F#8 ≠ crc8 .refl8C [0x00#8, 0x00#8, 0x00#8, 0x00#8, 0x01#8, 0xC0#8] := by decide

theorem witness_AccessesPerformTheirDatagrams :
    (ready [.ok] [.ioError]).handle.hs = .ready ∧
    (readable? blockParams.regTable 0x6C).isSome = true ∧
    (writable? blockParams.regTable 0xEC).isSome = true ∧
    (handleOf (exec (.readAccess 0x6C) (ready [.ok] [.ioError]))).isSome = true ∧
    (handleOf (exec (.dgramReadRequest 0 0x6C (crc8 .refl8C (readBody 0 0x6C)))
      (ready [.ok] [.ioError]))).isSome = true ∧
    (handleOf (exec (.writeAccess 0xEC 4) (ready [.ok] []))).isSome = true ∧
    (handleOf (exec (.dgramWrite 0 0x6C 0x04000000 (crc8 .refl8C (writeBody 0 0x6C 0x04000000)))
      (ready [.ok] []))).isSome = true := by decide

theorem witness_CrcSelfCheckYieldsZero :
    (CrcVariant.refl8C = .refl8C ∨ CrcVariant.refl8C = .reflE0) ∧
    (CrcVariant.reflE0 = .refl8C ∨ CrcVariant.reflE0 = .reflE0) := by decide

/-- The CRC byte itself is byte `b.length`. -/
theorem witness_SingleBitErrorsFailTheCrcCheck :
    [0x01#8, 0x02#8].length = [0xF0#8, 0x0F#8].length ∧ 7 < 8 ∧ 0 ≤ [0x01#8].length ∧
    1 ≤ [0x01#8].length := by decide

theorem witness_ExtractReadsBackWhatMergeWrote :
    defaultRegTable.all maskOk = true ∧
    (0x0F000000#32 &&& ~~~(0x0F000000#32) = 0) ∧ (0x000003FF#32 &&& ~~~(0x000003FF#32) = 0) := by
  decide

theorem witness_SyntheticRepliesParse :
    layoutOk blockParams.replyLayout = true ∧
    [0xFF#8, 0x6C#8, 0x14#8, 0x00#8, 0x00#8, 0x53#8].length + 1 = blockParams.replyLayout.len ∧
    [0xFF#8, 0x6C#8, 0x14#8, 0x00#8, 0x00#8, 0x53#8][blockParams.replyLayout.addrOff]? =
      some 0xFF#8 ∧
    [0xFF#8, 0x6C#8, 0x14#8, 0x00#8, 0x00#8, 0x53#8][blockParams.replyLayout.regOff]? =
      some 0x6C#8 ∧
    ([0xFF#8, 0x6C#8, 0x14#8, 0x00#8, 0x00#8, 0x53#8].drop blockParams.replyLayout.dataOff).take 4 =
      be32 0x14000053 ∧
    blockParams.replyLayout = compact7 := by decide

theorem witness_Echo9ParsesWriteDatagrams :
    ({ blockParams with replyLayout := echo9 }).replyLayout = echo9 := by decide

theorem witness_ClockConstantFitsItsField :
    1000000 ≤ ({ blockParams with fClk := 1000000 }).fClk ∧ 8 ≤ 8 ∧ 0 ≤ 8 := by decide

theorem witness_VelocityRoundsHalfAwayFromZero :
    velocity blockParams 460799969 78187494 = some 8388607 ∧
    velocity blockParams (-460800024) 78187494 = some (-8388608) ∧
    velocity blockParams (-2147483648) 2443359 = some (-1221680) := by decide

theorem witness_AngleCountsStayBelowATurn :
    8 ≤ 8 ∧ 0 ≤ 8 ∧ 0 < 2 ^ 16 ∧ 65535 < 2 ^ 16 := by decide

theorem witness_ZeroRpmWritesZero :
    (ready [.ok] []).handle.hs = .ready ∧ (ready [.ok] []).txAnswer = .ok ∧
    (ready [.ok] []).handle.nodeAddr = 0 := by decide

theorem witness_SetSpeedIsAVactualWrite :
    (ready [.ok] []).handle.hs = .ready ∧
    velocity blockParams (0x003C0000#32).toInt (ready [.ok] []).handle.clockConst.toNat = some 280 := by
  decide

theorem witness_UartAnswersAreExactAndFree :
    (ready [] [.bytes [0x01, 0x02]]).rxAnswer 2 = some [0x01, 0x02] := by rfl

theorem witness_EveryFrameGetsOneResponse :
    (waiting (.command [])).inbox = .packet (.command []) :: [] ∧
    (waiting (.command [0x0C, 0x00])).inbox = .packet (.command [0x0C, 0x00]) :: [] := by decide

theorem witness_ExceptionsLeaveTheHandleAlone :
    exec (.setEnable 1) (ready [] []) = .next ((ready [] []).replied [0x05]) ∧
    Status.unsupported ≠ .ok ∧
    ((ready [] []).replied [0x05]).trace.getLast? = some (.respond [Status.unsupported.code]) :=
  ⟨rfl, by decide, rfl⟩

theorem witness_StatusesStayInTheMatrix :
    exec (.setEnable 1) (ready [] []) = .next ((ready [] []).replied [0x05]) ∧
    Status.unsupported ≠ .ok ∧
    ((ready [] []).replied [0x05]).trace =
      (ready [] []).trace ++ [] ++ [.respond [Status.unsupported.code]] :=
  ⟨rfl, by decide, rfl⟩

theorem witness_StatelessCommandsReadNoState :
    isStateless (.calcCrc []) = true ∧ isStateless (.maskFor 0xFF) = true ∧
    isStateless (.buildWrite 4 0 0) = true ∧ isStateless (.buildRead 0 0) = true ∧
    isStateless (.parseReply []) = true ∧ isStateless (.setEnable 0) = true := by decide

/-- An instruction that meets every clause's exclusions. -/
theorem witness_HandleFieldsHaveTheirWriters :
    exec (.setEnable 1) (ready1 [] []) = .next ((ready1 [] []).replied [0x05]) ∧
    (∀ n st, Instr.setEnable 1 ≠ .init n st) ∧ (∀ m, Instr.setEnable 1 ≠ .setMicrostep m) ∧
    (∀ r, Instr.setEnable 1 ≠ .readAccess r) ∧ (∀ r v, Instr.setEnable 1 ≠ .writeAccess r v) ∧
    transmits (.setEnable 1) = false ∧ receives (.setEnable 1) = false :=
  ⟨rfl, fun _ _ h => (by cases h), fun _ h => (by cases h), fun _ h => (by cases h),
    fun _ _ h => (by cases h), rfl, rfl⟩

theorem witness_LifecycleFollowsInitAndReset :
    ({ ready [] [] with inbox := [.reset] }).inbox = .reset :: [] ∧
    (handleOf (step { ready [] [] with inbox := [.reset] })).map (·.hs) = some .uninitialized ∧
    (3#8).toNat < 4 ∧
    (handleOf (step (waiting (.command [0x01, 0x03, 0x00, 0xC8])))).map (·.hs) = some .ready ∧
    (waiting (.command [0x01, 0x03, 0x00, 0xC8])).handle.hs = .uninitialized ∧
    needsReady (.readAccess 0) = true ∧ needsReady (.setAngle 0) = true := by decide

/-- Bytes on the line, a frame that adds a response, and a frame that writes the handle. -/
theorem witness_OnlyTheHostStartsAnAction :
    ({ ready [] [] with inbox := [.line [0x01, 0x6C]] }).inbox = .line [0x01, 0x6C] :: [] ∧
    (lastEvent (step (waiting (.command [0x01, 0x03, 0x00, 0xC8])))).isSome = true ∧
    handleOf (step (waiting (.command [0x01, 0x03, 0x00, 0xC8]))) ≠ some State.reset.handle ∧
    (waiting (.command [0x01, 0x03, 0x00, 0xC8])).inbox.head? ≠ some .reset := by decide

theorem witness_CommandsReachListedRegistersOnly :
    ({ ready [.ok] [] with inbox := [.packet (.command [0x0B, 0x08])] }).inbox =
      .packet (.command [0x0B, 0x08]) :: [] ∧
    firstEvent (step { ready [.ok] [] with inbox := [.packet (.command [0x0B, 0x08])] }) =
      some (.transmit [0x05, 0x00, 0x00, 0xEC, 0x08, 0x00, 0x00, 0x00, 0xB1]) := by decide

theorem witness_OnlyLegalParametersHaveAMachine :
    paramsOk blockParams = true ∧ paramsOk { blockParams with fClk := 999999 } = false ∧
    paramsOk { blockParams with regTable := [] } = false := by decide

/-- The ends of both ranges, one step beyond each, and raw words. -/
theorem witness_AssemblerNeverRounds :
    rawWord? "rpm#0x".toList "rpm#0x80000000".toList = some 0x80000000 ∧
    rawWord? "rpm#0x".toList "-32768".toList = none ∧
    rpmOperand? "-32768".toList = some 0x80000000 ∧
    rpmOperand? "32767.9999847412109375".toList = some 0x7FFFFFFF ∧
    rpmOperand? "32768".toList = none ∧
    rawWord? "angle#0x".toList "angle#0xFFFFFFFF".toList = some 0xFFFFFFFF ∧
    rawWord? "angle#0x".toList "65536".toList = none ∧
    angleOperand? "65535.9999847412109375".toList = some 0xFFFFFFFF ∧
    angleOperand? "65536".toList = none ∧ angleOperand? "-1".toList = none := by decide

theorem witness_ResetIsSilentAndLosesNoCommand :
    ({ ready [] [] with inbox := [.reset, .packet (.command [0x0C, 0x00])] }).inbox =
      .reset :: [.packet (.command [0x0C, 0x00])] := by decide

theorem witness_FirstMicrostepWriteClearsTheRest :
    (3#8).toNat < 4 ∧ (8#8).toNat ≤ 8 ∧
    exec (.init 3 200) (ready1 [.ok] []) =
      .next (((ready1 [.ok] []).setHandle (Handle.initialised blockParams 3 200)).replied [0x00]) ∧
    (((ready1 [.ok] []).setHandle (Handle.initialised blockParams 3 200)).replied [0x00]).txAnswer =
      .ok :=
  ⟨by decide, by decide, rfl, rfl⟩

/-- A Ready handle at each end of the microstep codes meets the invariant, and its step is a next
state. -/
theorem witness_StepsKeepTheClockConstantInStep :
    (readyHandle 0 8 0).Inv blockParams ∧ (readyHandle 0 0 0).Inv blockParams ∧
    step (ready [] []) = .next (ready [] []) :=
  ⟨fun _ => ⟨by decide, rfl⟩, fun _ => ⟨by decide, rfl⟩, rfl⟩

theorem witness_StepsAddOnlyWellFormedEvents :
    (ready [] []).timerStop.traceOk blockParams = true ∧
    step (ready [] []).timerStop = .next (ready [] []).timerStop :=
  ⟨rfl, rfl⟩

/-- Two different handles in Uninitialized. -/
theorem witness_UnspecifiedFieldsAreNeverObserved :
    State.reset.Agree
      { State.reset with handle := { Handle.reset with nodeAddr := 3, shadowGconf := 0xFFFFFFFF } } :=
  ⟨rfl, fun h => (nomatch h), rfl⟩

end Sys2Proof.Tests
end

section
/-! Proofs of the family 30_encoding.md: the frames that decode to no instruction (R49). -/

namespace Sys2Proof.Proofs.Encoding

open Sys2Proof Sys2Proof.Machine

/-- The opcodes whose frame length R48 fixes: all but CALC_CRC. -/
def fixedLengthOpcodes : List Opcode :=
  [.init, .maskFor, .buildWrite, .buildRead, .parseReply, .readAccess, .writeAccess, .setSpeed,
    .setAngle, .setMicrostep, .setEnable]

theorem mem_fixedLengthOpcodes_iff (o : Opcode) : o ∈ fixedLengthOpcodes ↔ o ≠ .calcCrc := by
  cases o <;> decide

/-- The first byte and the length of each fixed-length frame, as the decoder has them (R47, R48). -/
def fixedLengthTable : List (Byte × Nat) :=
  fixedLengthOpcodes.map fun o => (opcodeByte o, requiredLength blockParams o 0)

theorem mem_fixedLengthTable_iff (op : Byte) (len : Nat) :
    (op, len) ∈ fixedLengthTable ↔
      ∃ o : Opcode, o ≠ .calcCrc ∧ opcodeByte o = op ∧ requiredLength blockParams o 0 = len := by
  simp [fixedLengthTable, mem_fixedLengthOpcodes_iff]

/-- A frame that begins with a reserved opcode is rejected by that byte (R50). -/
theorem decodeFrame_reserved (P : Params) (op : Byte) (args : List Byte)
    (h : op = 0 ∨ 0x0D ≤ op.toNat) :
    decodeFrame P (op :: args) = .error (.reservedOpcode op) := by
  simp only [decodeFrame, opcodeOf?_reserved op h]

/-- A frame of a fixed-length opcode with another length is rejected (R48, R49). -/
theorem decodeFrame_otherLength (op : Byte) (args : List Byte) (len : Nat)
    (hmem : (op, len) ∈ fixedLengthTable) (hlen : (op :: args).length ≠ len) :
    ∃ e, decodeFrame blockParams (op :: args) = .error e := by
  obtain ⟨o, hcrc, rfl, rfl⟩ := (mem_fixedLengthTable_iff op len).mp hmem
  rw [decodeFrame_opcode]
  exact decodeOperands_wrongLength blockParams o args hcrc hlen

/-- A CALC_CRC frame with another number of bytes than its count is rejected (R49, R60). -/
theorem decodeFrame_calcCrc_miscounted (P : Params) (n : Byte) (d : List Byte)
    (h : d.length ≠ n.toNat) :
    decodeFrame P (opcodeByte .calcCrc :: n :: d) = .error .wrongLength := by
  rw [decodeFrame_opcode]
  exact if_neg h

/-- Settles O2: each clause of R49 makes the decoder answer an error, and a step on a command frame
that does not decode is the response 06 alone. -/
theorem malformedFramesRaiseIllegalCommand : Obligations.MalformedFramesRaiseIllegalCommand := by
  intro s f rest hinbox hmalformed
  have hundecodable : ∃ e, decodeFrame blockParams f = .error e := by
    obtain rfl | hzero | ⟨op, args, rfl, hhigh⟩ | ⟨op, args, len, rfl, hlen, hmem⟩ | rfl |
      ⟨n, d, rfl, hcount⟩ := hmalformed
    · exact ⟨.emptyFrame, rfl⟩
    · obtain ⟨args, rfl⟩ := List.head?_eq_some_iff.mp hzero
      exact ⟨_, decodeFrame_reserved blockParams _ args (.inl rfl)⟩
    · exact ⟨_, decodeFrame_reserved blockParams op args (.inr hhigh)⟩
    · exact decodeFrame_otherLength op args len hmem hlen
    · exact ⟨.missingCount, rfl⟩
    · exact ⟨_, decodeFrame_calcCrc_miscounted blockParams n d hcount⟩
  obtain ⟨e, he⟩ := hundecodable
  exact step_undecodable s f rest e hinbox he

end Sys2Proof.Proofs.Encoding
end

section
/-! Proofs of the family 40_crc.md: decoding and meaning of CALC_CRC (R64). -/

namespace Sys2Proof.Proofs.CrcUnit

open Sys2Proof Sys2Proof.Machine Sys2Proof.Proofs.Encoding

/-- A CALC_CRC frame whose count is the number of its bytes decodes to those bytes (R48, R64). -/
theorem decode_calcCrc_counted (n : Byte) (d : List Byte) (h : d.length = n.toNat) :
    decode (.command (opcodeByte .calcCrc :: n :: d)) = .ok (.calcCrc d) :=
  calc
    _ = decodeOperands blockParams .calcCrc (n :: d) := decodeFrame_opcode ..
    _ = .ok (.calcCrc d) := if_pos h

/-- A CALC_CRC frame without a count, or with another count than the number of its bytes, is no
instruction (R49). -/
theorem decodeFrame_calcCrc_malformed (P : Params) (args : List Byte)
    (h : ∀ n d, args = n :: d → d.length ≠ n.toNat) :
    ∃ e, decodeFrame P (opcodeByte .calcCrc :: args) = .error e := by
  cases args with
  | nil => exact ⟨.missingCount, rfl⟩
  | cons n d => exact ⟨.wrongLength, decodeFrame_calcCrc_miscounted P n d (h n d rfl)⟩

theorem exec_calcCrc (d : List Byte) (s : State) :
    exec (.calcCrc d) s = calcCrcWith blockParams d s := rfl

/-- CALC_CRC of no bytes is an InvalidArgument (R64). -/
theorem exec_calcCrc_nil (s : State) : exec (.calcCrc []) s = .next (s.replied [0x07#8]) := by
  rw [exec_calcCrc]
  obtain ⟨-, hinvalid⟩ | ⟨hne, -⟩ := calcCrcWith_cases blockParams s []
  · exact hinvalid
  · exact absurd rfl hne

/-- CALC_CRC of at least one byte answers OK and the checksum (R64); the model needs no upper bound,
which the count byte of the frame gives. -/
theorem exec_calcCrc_of_ne_nil (s : State) (d : List Byte) (hne : d ≠ []) :
    exec (.calcCrc d) s = .next (s.replied [0x00#8, crc8 .refl8C d]) := by
  rw [exec_calcCrc]
  obtain ⟨hnil, -⟩ | ⟨-, hanswer⟩ := calcCrcWith_cases blockParams s d
  · exact absurd hnil hne
  · exact hanswer

/-- Settles O6: the count byte alone decides whether a frame that begins with 02 is CALC_CRC, and
whether its bytes are empty decides between InvalidArgument and their checksum. -/
theorem calcCrcAnswersTheChecksum : Obligations.CalcCrcAnswersTheChecksum := by
  refine ⟨decode_calcCrc_counted, ?malformed, exec_calcCrc_nil, ?answer⟩
  case malformed =>
    intro s args rest hinbox hcount
    obtain ⟨e, he⟩ := decodeFrame_calcCrc_malformed blockParams args hcount
    exact step_undecodable s _ rest e hinbox he
  case answer =>
    intro s d hne _
    exact exec_calcCrc_of_ne_nil s d hne

end Sys2Proof.Proofs.CrcUnit
end

section
/-! Proofs of the family 41_register_map.md: decoding and meaning of MASK_FOR (R72). -/

namespace Sys2Proof.Proofs.RegisterMap

open Sys2Proof Sys2Proof.Machine

/-- Every opcode but CALC_CRC refuses each frame length but the one R48 gives it (R49). -/
theorem refusesOtherLengths_opcode (o : Opcode) (hcrc : o ≠ .calcCrc) :
    RefusesOtherLengths (opcodeByte o) (requiredLength blockParams o 0) := by
  intro s args rest hinbox hlen
  obtain ⟨e, he⟩ := decodeOperands_wrongLength blockParams o args hcrc hlen
  exact step_undecodable s _ rest e hinbox ((decodeFrame_opcode blockParams o args).trans he)

theorem exec_maskFor (rid : Byte) (s : State) :
    exec (.maskFor rid) s = maskForWith blockParams rid s := rfl

/-- MASK_FOR of a readable identifier answers OK, the mask and the shift (R72). -/
theorem exec_maskFor_of_readable (s : State) (rid : Byte) (D : Descriptor)
    (hD : readable? defaultRegTable rid = some D) :
    exec (.maskFor rid) s =
      .next (s.replied (0x00#8 :: (be32 D.mask ++ [BitVec.ofNat 8 D.shift.val]))) := by
  rw [exec_maskFor]
  obtain ⟨hnone, -⟩ | ⟨D', hsome, hanswer⟩ := maskForWith_cases blockParams s rid
  · exact absurd (hD.symm.trans hnone) (Option.some_ne_none D)
  · obtain rfl : D' = D := Option.some.inj (hsome.symm.trans hD)
    exact hanswer

/-- MASK_FOR of an identifier that is not readable is an InvalidArgument (R72). -/
theorem exec_maskFor_of_not_readable (s : State) (rid : Byte)
    (hnone : readable? defaultRegTable rid = none) :
    exec (.maskFor rid) s = .next (s.replied [0x07#8]) := by
  rw [exec_maskFor]
  obtain ⟨-, hinvalid⟩ | ⟨D, hsome, -⟩ := maskForWith_cases blockParams s rid
  · exact hinvalid
  · exact absurd (hsome.symm.trans hnone) (Option.some_ne_none D)

/-- The descriptor of R_GCONF in the default table (R68). -/
theorem readable?_default_gconf :
    readable? defaultRegTable 0x00#8 = some ⟨0x00#8, .rGconf, 0xFFFFFFFF#32, 0, some .gconf⟩ := rfl

/-- The descriptor of R_SG_RESULT in the default table (R68). -/
theorem readable?_default_sgResult :
    readable? defaultRegTable 0x41#8 = some ⟨0x41#8, .rSgResult, 0x000003FF#32, 0, none⟩ := rfl

/-- The descriptor of R_CHOPCONF in the default table (R68). -/
theorem readable?_default_chopconf :
    readable? defaultRegTable 0x6C#8 =
      some ⟨0x6C#8, .rChopconf, 0x0F000000#32, 24, some .chopconf⟩ := rfl

/-- Settles O7: the look-up in the default table decides between InvalidArgument and the bytes of the
descriptor it finds. -/
theorem maskForAnswersMaskAndShift : Obligations.MaskForAnswersMaskAndShift := by
  refine ⟨refusesOtherLengths_opcode .maskFor (by decide), ?decodes, fun s =>
    ⟨exec_maskFor_of_readable s _ _ readable?_default_gconf,
      exec_maskFor_of_readable s _ _ readable?_default_sgResult,
      exec_maskFor_of_readable s _ _ readable?_default_chopconf, ?others⟩⟩
  case decodes =>
    intro rid
    exact decodeFrame_opcode blockParams .maskFor [rid]
  case others =>
    intro rid hgconf hsgResult hchopconf
    have hunlisted : rid ∉ [0x00#8, 0x41#8, 0x6C#8] := by simp [hgconf, hsgResult, hchopconf]
    exact exec_maskFor_of_not_readable s rid (readable?_default_none rid hunlisted)

end Sys2Proof.Proofs.RegisterMap
end

section
/-! Proofs of the family 42_datagram_codec.md: decoding and meaning of BUILD_WRITE and BUILD_READ
(R75, R77). -/

namespace Sys2Proof.Proofs.DatagramCodec

open Sys2Proof Sys2Proof.Machine Sys2Proof.Proofs.RegisterMap

/-! ### The node byte and the register byte of a datagram -/

theorem nodeOf?_of_lt (n : Byte) (h : n.toNat < 4) : nodeOf? n = some (n.setWidth 2) :=
  (nodeOf?_eq n).trans (if_pos h)

theorem nodeOf?_of_ge (n : Byte) (h : 4 ≤ n.toNat) : nodeOf? n = none :=
  (nodeOf?_eq n).trans (if_neg (Nat.not_lt.mpr h))

/-- The address of a writable identifier with the write bit set is the identifier (R53, R55). -/
theorem ridAddr_or_writeBit (rid : Byte) (h : ridWritable rid = true) :
    (ridAddr rid).setWidth 8 ||| 0x80#8 = rid := by
  revert rid; decide

/-- The address of a readable identifier is the identifier (R53, R56). -/
theorem ridAddr_setWidth (rid : Byte) (h : ridWritable rid = false) :
    (ridAddr rid).setWidth 8 = rid := by
  revert rid; decide

/-- The bytes before the CRC of the write datagram for a node byte, a writable identifier and four
data bytes (R55). -/
theorem writeBody_of_bytes (t : List Descriptor) (n r d3 d2 d1 d0 : Byte) (D : Descriptor)
    (hn : n.toNat < 4) (hD : writable? t r = some D) :
    writeBody (n.setWidth 2) (descAddr D) (unbe32 d3 d2 d1 d0) =
      [0x05#8, 0x00#8, n, r, d3, d2, d1, d0] := by
  obtain ⟨-, rfl, hw⟩ := writable?_some t r D hD
  rw [writeBody, be32_unbe32, node_setWidth n hn, descAddr, ridAddr_or_writeBit D.rid hw]
  rfl

/-- The bytes before the CRC of the read request for a node byte and a readable identifier (R56). -/
theorem readBody_of_bytes (t : List Descriptor) (n r : Byte) (D : Descriptor)
    (hn : n.toNat < 4) (hD : readable? t r = some D) :
    readBody (n.setWidth 2) (descAddr D) = [0x05#8, 0x00#8, n, r] := by
  obtain ⟨-, rfl, hw⟩ := readable?_some t r D hD
  rw [readBody_eq, node_setWidth n hn, descAddr, ridAddr_setWidth D.rid hw]

/-! ### The identifiers the default table lists (R68) -/

theorem writable?_default_some (rid : Byte) (h : rid ∈ [0x80#8, 0x83#8, 0xA2#8, 0xEC#8]) :
    ∃ D, writable? defaultRegTable rid = some D := by
  rw [← Option.isSome_iff_exists]
  revert rid; decide

theorem readable?_default_some (rid : Byte) (h : rid ∈ [0x00#8, 0x41#8, 0x6C#8]) :
    ∃ D, readable? defaultRegTable rid = some D := by
  rw [← Option.isSome_iff_exists]
  revert rid; decide

/-! ### BUILD_WRITE -/

theorem exec_buildWrite (n r : Byte) (d : Word) (s : State) :
    exec (.buildWrite n r d) s = buildWriteWith blockParams n r d s := rfl

/-- BUILD_WRITE with a node byte or an identifier that is not valid is an InvalidArgument (R75). -/
theorem exec_buildWrite_of_invalid (s : State) (n r : Byte) (d : Word)
    (h : 4 ≤ n.toNat ∨ r ∉ [0x80#8, 0x83#8, 0xA2#8, 0xEC#8]) :
    exec (.buildWrite n r d) s = .next (s.replied [0x07#8]) := by
  rw [exec_buildWrite]
  obtain hinvalid | ⟨m, D, hm, hD, -⟩ := buildWriteWith_cases blockParams s n r d
  · exact hinvalid
  · obtain hn | hr := h
    · exact absurd (hm.symm.trans (nodeOf?_of_ge n hn)) (Option.some_ne_none m)
    · exact absurd (hD.symm.trans (writable?_default_none r hr)) (Option.some_ne_none D)

/-- BUILD_WRITE of a node and a writable descriptor answers OK and their write datagram (R74, R75). -/
theorem exec_buildWrite_of_writable (s : State) (n r : Byte) (d : Word) (m : BitVec 2)
    (D : Descriptor) (hm : nodeOf? n = some m) (hD : writable? defaultRegTable r = some D) :
    exec (.buildWrite n r d) s = .next (s.replied (0x00#8 :: buildWrite blockParams m D d)) := by
  have hD' : writable? blockParams.regTable r = some D := hD
  simp only [exec_buildWrite, buildWriteWith, hm, hD', State.answer_eq]

/-- Settles O8: the node byte and the identifier alone decide between InvalidArgument and the
datagram, whose fields are the operand bytes as they came. -/
theorem buildWriteAnswersTheDatagram : Obligations.BuildWriteAnswersTheDatagram := by
  refine ⟨refusesOtherLengths_opcode .buildWrite (by decide), ?decodes, ?answers⟩
  case decodes =>
    intro n r d3 d2 d1 d0
    exact decodeFrame_opcode blockParams .buildWrite [n, r, d3, d2, d1, d0]
  case answers =>
    intro s n r d3 d2 d1 d0
    split
    next hinvalid => exact exec_buildWrite_of_invalid s n r _ hinvalid
    next hvalid =>
      obtain ⟨hn, hr⟩ : n.toNat < 4 ∧ r ∈ [0x80#8, 0x83#8, 0xA2#8, 0xEC#8] := by
        simpa only [not_or, not_le, not_not] using hvalid
      obtain ⟨D, hD⟩ := writable?_default_some r hr
      rw [exec_buildWrite_of_writable s n r _ _ D (nodeOf?_of_lt n hn) hD, buildWrite,
        writeBody_of_bytes _ n r d3 d2 d1 d0 D hn hD]
      rfl

/-! ### BUILD_READ -/

theorem exec_buildRead (n r : Byte) (s : State) :
    exec (.buildRead n r) s = buildReadWith blockParams n r s := rfl

/-- BUILD_READ with a node byte or an identifier that is not valid is an InvalidArgument (R77). -/
theorem exec_buildRead_of_invalid (s : State) (n r : Byte)
    (h : 4 ≤ n.toNat ∨ r ∉ [0x00#8, 0x41#8, 0x6C#8]) :
    exec (.buildRead n r) s = .next (s.replied [0x07#8]) := by
  rw [exec_buildRead]
  obtain hinvalid | ⟨m, D, hm, hD, -⟩ := buildReadWith_cases blockParams s n r
  · exact hinvalid
  · obtain hn | hr := h
    · exact absurd (hm.symm.trans (nodeOf?_of_ge n hn)) (Option.some_ne_none m)
    · exact absurd (hD.symm.trans (readable?_default_none r hr)) (Option.some_ne_none D)

/-- BUILD_READ of a node and a readable descriptor answers OK and their read request (R76, R77). -/
theorem exec_buildRead_of_readable (s : State) (n r : Byte) (m : BitVec 2) (D : Descriptor)
    (hm : nodeOf? n = some m) (hD : readable? defaultRegTable r = some D) :
    exec (.buildRead n r) s = .next (s.replied (0x00#8 :: buildRead blockParams m D)) := by
  have hD' : readable? blockParams.regTable r = some D := hD
  simp only [exec_buildRead, buildReadWith, hm, hD', State.answer_eq]

/-- Settles O9: the node byte and the identifier alone decide between InvalidArgument and the read
request, whose fields are the operand bytes as they came. -/
theorem buildReadAnswersTheRequest : Obligations.BuildReadAnswersTheRequest := by
  refine ⟨refusesOtherLengths_opcode .buildRead (by decide), ?decodes, ?answers⟩
  case decodes =>
    intro n r
    exact decodeFrame_opcode blockParams .buildRead [n, r]
  case answers =>
    intro s n r
    split
    next hinvalid => exact exec_buildRead_of_invalid s n r hinvalid
    next hvalid =>
      obtain ⟨hn, hr⟩ : n.toNat < 4 ∧ r ∈ [0x00#8, 0x41#8, 0x6C#8] := by
        simpa only [not_or, not_le, not_not] using hvalid
      obtain ⟨D, hD⟩ := readable?_default_some r hr
      rw [exec_buildRead_of_readable s n r _ D (nodeOf?_of_lt n hn) hD, buildRead,
        readBody_of_bytes _ n r D hn hD]
      rfl

end Sys2Proof.Proofs.DatagramCodec
end

section
/-! Proofs of the family 43_register_access.md: decoding and meaning of READ_ACCESS and WRITE_ACCESS
(R82, R84). -/

namespace Sys2Proof.Proofs.RegisterAccess

open Sys2Proof Sys2Proof.Machine Sys2Proof.Proofs.RegisterMap Sys2Proof.Proofs.DatagramCodec

/-! ### The datagrams of the two accesses -/

/-- The register byte of a read request is the identifier of its descriptor (R53, R56, R76). -/
theorem buildRead_of_readable (t : List Descriptor) (node : BitVec 2) (rid : Byte) (D : Descriptor)
    (hD : readable? t rid = some D) :
    buildRead blockParams node D = [0x05#8, 0x00#8, node.setWidth 8, rid,
      crc8 .refl8C [0x05#8, 0x00#8, node.setWidth 8, rid]] := by
  obtain ⟨-, rfl, hreadable⟩ := readable?_some t rid D hD
  rw [buildRead, readBody_eq, descAddr, ridAddr_setWidth D.rid hreadable]
  rfl

/-- The register byte of a write datagram is the identifier of its descriptor (R53, R55, R74). -/
theorem buildWrite_of_writable (t : List Descriptor) (node : BitVec 2) (rid : Byte) (D : Descriptor)
    (data : Word) (hD : writable? t rid = some D) :
    buildWrite blockParams node D data =
      sealed blockParams ([0x05#8, 0x00#8, node.setWidth 8, rid] ++ be32 data) := by
  obtain ⟨-, rfl, hwritable⟩ := writable?_some t rid D hD
  rw [buildWrite, writeBody, descAddr, ridAddr_or_writeBit D.rid hwritable]

/-! ### The descriptors of the default table (R68) -/

/-- The readable descriptors of the default table. -/
theorem readable?_default_cases (rid : Byte) (D : Descriptor)
    (hD : readable? defaultRegTable rid = some D) :
    (rid = 0x00#8 ∧ D = ⟨0x00#8, .rGconf, 0xFFFFFFFF#32, 0, some .gconf⟩) ∨
    (rid = 0x41#8 ∧ D = ⟨0x41#8, .rSgResult, 0x000003FF#32, 0, none⟩) ∨
    (rid = 0x6C#8 ∧ D = ⟨0x6C#8, .rChopconf, 0x0F000000#32, 24, some .chopconf⟩) := by
  obtain ⟨hmem, rfl, hreadable⟩ := readable?_some _ rid D hD
  simp only [defaultRegTable, List.mem_cons, List.not_mem_nil, or_false] at hmem
  obtain rfl | rfl | rfl | rfl | rfl | rfl | rfl := hmem
  case inl => exact .inl ⟨rfl, rfl⟩
  case inr.inl => exact .inr (.inl ⟨rfl, rfl⟩)
  case inr.inr.inl => exact .inr (.inr ⟨rfl, rfl⟩)
  all_goals exact absurd hreadable (by decide)

/-- The writable descriptors of the default table. -/
theorem writable?_default_cases (rid : Byte) (D : Descriptor)
    (hD : writable? defaultRegTable rid = some D) :
    (rid = 0x80#8 ∧ D = ⟨0x80#8, .wGconf, 0xFFFFFFFF#32, 0, some .gconf⟩) ∨
    (rid = 0x83#8 ∧ D = ⟨0x83#8, .wNodeconf, 0xFFFFFFFF#32, 0, some .nodeconf⟩) ∨
    (rid = 0xA2#8 ∧ D = ⟨0xA2#8, .wVactual, 0x00FFFFFF#32, 0, none⟩) ∨
    (rid = 0xEC#8 ∧ D = ⟨0xEC#8, .wChopconf, 0x0F000000#32, 24, some .chopconf⟩) := by
  obtain ⟨hmem, rfl, hwritable⟩ := writable?_some _ rid D hD
  simp only [defaultRegTable, List.mem_cons, List.not_mem_nil, or_false] at hmem
  obtain rfl | rfl | rfl | rfl | rfl | rfl | rfl := hmem
  case inr.inr.inr.inl => exact .inl ⟨rfl, rfl⟩
  case inr.inr.inr.inr.inl => exact .inr (.inl ⟨rfl, rfl⟩)
  case inr.inr.inr.inr.inr.inl => exact .inr (.inr (.inl ⟨rfl, rfl⟩))
  case inr.inr.inr.inr.inr.inr => exact .inr (.inr (.inr ⟨rfl, rfl⟩))
  all_goals exact absurd hwritable (by decide)

/-! ### Fields and shadows over the default table -/

/-- A field that lies at bit 0 is placed by its mask alone (R71). -/
theorem place_of_shift_zero (v : Word) (D : Descriptor) (hshift : D.shift = 0) :
    place v D = v &&& D.mask := by
  simp [place, hshift]

/-- A field that lies at bit 0 is extracted by its mask alone (R70). -/
theorem extract_of_shift_zero (d : Word) (D : Descriptor) (hshift : D.shift = 0) :
    extract d D = d &&& D.mask := by
  simp [extract, hshift]

/-- A field that is the whole register keeps nothing of the old value (R71). -/
theorem merge_of_fullMask (old v : Word) (D : Descriptor) (hshift : D.shift = 0)
    (hmask : D.mask = BitVec.allOnes 32) : merge old v D = v := by
  rw [merge, place_of_shift_zero v D hshift, hmask, BitVec.and_allOnes, BitVec.not_allOnes,
    BitVec.and_zero, BitVec.zero_or]

/-- The field each readable identifier answers (R70). -/
theorem extract_default (rid : Byte) (D : Descriptor) (d : Word)
    (hD : readable? defaultRegTable rid = some D) :
    extract d D = if rid = 0x41#8 then d &&& 0x3FF#32
      else if rid = 0x6C#8 then (d >>> 24) &&& 0xF#32 else d := by
  obtain ⟨rfl, rfl⟩ | ⟨rfl, rfl⟩ | ⟨rfl, rfl⟩ := readable?_default_cases rid D hD
  · exact (extract_of_shift_zero d _ rfl).trans BitVec.and_allOnes
  · exact extract_of_shift_zero d _ rfl
  · exact BitVec.ushiftRight_and_distrib d 0x0F000000#32 24

/-- The shadow each readable identifier refreshes (R83). -/
theorem setShadowOf_readable (s : State) (rid : Byte) (D : Descriptor) (d : Word)
    (hD : readable? defaultRegTable rid = some D) :
    s.setShadowOf D d = s.setHandle
      (if rid = 0x00#8 then { s.handle with shadowGconf := d }
        else if rid = 0x6C#8 then { s.handle with shadowChopconf := d } else s.handle) := by
  obtain ⟨rfl, rfl⟩ | ⟨rfl, rfl⟩ | ⟨rfl, rfl⟩ := readable?_default_cases rid D hD <;> rfl

/-- The register value each writable identifier sends (R71, R84). -/
theorem mergedValue_default (s : State) (rid : Byte) (D : Descriptor) (v : Word)
    (hD : writable? defaultRegTable rid = some D) :
    s.mergedValue D v = if rid = 0xEC#8 then
        (s.handle.shadowChopconf &&& 0xF0FFFFFF#32) ||| ((v <<< 24) &&& 0x0F000000#32)
      else if rid = 0xA2#8 then v &&& 0x00FFFFFF#32 else v := by
  obtain ⟨rfl, rfl⟩ | ⟨rfl, rfl⟩ | ⟨rfl, rfl⟩ | ⟨rfl, rfl⟩ := writable?_default_cases rid D hD
  · exact merge_of_fullMask s.handle.shadowGconf v _ rfl rfl
  · exact merge_of_fullMask s.handle.shadowNodeconf v _ rfl rfl
  · exact place_of_shift_zero v _ rfl
  · rfl

/-- The shadow each writable identifier updates (R85). -/
theorem setShadowOf_writable (s : State) (rid : Byte) (D : Descriptor) (v : Word)
    (hD : writable? defaultRegTable rid = some D) :
    s.setShadowOf D v = s.setHandle
      (if rid = 0x80#8 then { s.handle with shadowGconf := v }
        else if rid = 0x83#8 then { s.handle with shadowNodeconf := v }
        else if rid = 0xEC#8 then { s.handle with shadowChopconf := v } else s.handle) := by
  obtain ⟨rfl, rfl⟩ | ⟨rfl, rfl⟩ | ⟨rfl, rfl⟩ | ⟨rfl, rfl⟩ :=
    writable?_default_cases rid D hD <;> rfl

/-! ### READ_ACCESS -/

theorem exec_readAccess (rid : Byte) (s : State) :
    exec (.readAccess rid) s = readAccessWith blockParams rid s := rfl

/-- READ_ACCESS before INIT is an InvalidState (R82). -/
theorem exec_readAccess_of_uninitialized (s : State) (rid : Byte)
    (hstate : s.handle.hs = .uninitialized) :
    exec (.readAccess rid) s = .next (s.replied [0x03#8]) := by
  rw [exec_readAccess]
  obtain ⟨-, hinvalid⟩ | ⟨hready, -⟩ | ⟨D, hready, -⟩ := readAccessWith_cases blockParams s rid
  · exact hinvalid
  · cases hstate.symm.trans hready
  · cases hstate.symm.trans hready

/-- READ_ACCESS of an identifier that is not readable is an InvalidArgument (R82). -/
theorem exec_readAccess_of_not_readable (s : State) (rid : Byte) (hstate : s.handle.hs = .ready)
    (hnone : readable? defaultRegTable rid = none) :
    exec (.readAccess rid) s = .next (s.replied [0x07#8]) := by
  rw [exec_readAccess]
  obtain ⟨huninit, -⟩ | ⟨-, -, hinvalid⟩ | ⟨D, -, hsome, -⟩ := readAccessWith_cases blockParams s rid
  · cases hstate.symm.trans huninit
  · exact hinvalid
  · cases hsome.symm.trans hnone

section Readable

variable (s : State) (rid : Byte) (D : Descriptor)

/-- The four ways READ_ACCESS of a readable identifier ends in Ready: its `Transmit` fails, its
`Receive` fails, the reply's CRC is wrong, or the field is answered (R82). -/
theorem exec_readAccess_outcomes (hstate : s.handle.hs = .ready)
    (hD : readable? defaultRegTable rid = some D) :
    let q := buildRead blockParams s.handle.nodeAddr D
    let got := (s.transmit q).receive 7 Config.rxTimeout
    (s.txAnswer = .ioError ∧
      exec (.readAccess rid) s = .next ((s.transmit q).replied [0x02#8])) ∨
    (s.txAnswer = .ok ∧ s.rxAnswer 7 = none ∧
      exec (.readAccess rid) s = .next (got.replied [0x02#8])) ∨
    ∃ y, s.txAnswer = .ok ∧ s.rxAnswer 7 = some y ∧
      ((parse blockParams y = none ∧ exec (.readAccess rid) s = .next (got.replied [0x01#8])) ∨
      ∃ a r d, parse blockParams y = some (a, r, d) ∧ exec (.readAccess rid) s =
        .next ((got.setShadowOf D d).replied (0x00#8 :: (be32 (extract d D) ++ y ++ q)))) := by
  rw [exec_readAccess]
  obtain ⟨huninit, -⟩ | ⟨-, hnone, -⟩ | ⟨D', -, hsome, houtcomes⟩ :=
    readAccessWith_cases blockParams s rid
  · cases hstate.symm.trans huninit
  · cases hD.symm.trans hnone
  · obtain rfl : D' = D := Option.some.inj (hsome.symm.trans hD)
    exact houtcomes

/-- A failed `Transmit` is an IoTimeoutError, and nothing is received (R82). -/
theorem exec_readAccess_of_transmit_ioError (hstate : s.handle.hs = .ready)
    (hD : readable? defaultRegTable rid = some D) (htx : s.txAnswer = .ioError) :
    exec (.readAccess rid) s =
      .next ((s.transmit (buildRead blockParams s.handle.nodeAddr D)).replied [0x02#8]) := by
  obtain ⟨-, htimeout⟩ | ⟨hok, -⟩ | ⟨y, hok, -⟩ := exec_readAccess_outcomes s rid D hstate hD
  · exact htimeout
  · cases htx.symm.trans hok
  · cases htx.symm.trans hok

/-- A failed `Receive` is an IoTimeoutError (R82). -/
theorem exec_readAccess_of_receive_ioError (hstate : s.handle.hs = .ready)
    (hD : readable? defaultRegTable rid = some D) (htx : s.txAnswer = .ok)
    (hrx : s.rxAnswer 7 = none) :
    exec (.readAccess rid) s = .next
      (((s.transmit (buildRead blockParams s.handle.nodeAddr D)).receive 7
        Config.rxTimeout).replied [0x02#8]) := by
  obtain ⟨hfail, -⟩ | ⟨-, -, htimeout⟩ | ⟨y, -, hsome, -⟩ :=
    exec_readAccess_outcomes s rid D hstate hD
  · cases htx.symm.trans hfail
  · exact htimeout
  · cases hrx.symm.trans hsome

/-- A received reply is parsed: it is a ChecksumError, or its field is answered and its payload goes
to the descriptor's shadow (R82, R83). -/
theorem exec_readAccess_of_reply (y : List Byte) (hstate : s.handle.hs = .ready)
    (hD : readable? defaultRegTable rid = some D) (htx : s.txAnswer = .ok)
    (hrx : s.rxAnswer 7 = some y) :
    let q := buildRead blockParams s.handle.nodeAddr D
    let got := (s.transmit q).receive 7 Config.rxTimeout
    (parse blockParams y = none ∧ exec (.readAccess rid) s = .next (got.replied [0x01#8])) ∨
    ∃ a r d, parse blockParams y = some (a, r, d) ∧ exec (.readAccess rid) s =
      .next ((got.setShadowOf D d).replied (0x00#8 :: (be32 (extract d D) ++ y ++ q))) := by
  obtain ⟨hfail, -⟩ | ⟨-, hnone, -⟩ | ⟨y', -, hsome, hparsed⟩ :=
    exec_readAccess_outcomes s rid D hstate hD
  · cases htx.symm.trans hfail
  · cases hrx.symm.trans hnone
  · obtain rfl : y' = y := Option.some.inj (hsome.symm.trans hrx)
    exact hparsed

/-- A reply with a wrong CRC is a ChecksumError (R78, R82). -/
theorem exec_readAccess_of_bad_reply (y : List Byte) (hstate : s.handle.hs = .ready)
    (hD : readable? defaultRegTable rid = some D) (htx : s.txAnswer = .ok)
    (hrx : s.rxAnswer 7 = some y) (hbad : parse blockParams y = none) :
    exec (.readAccess rid) s = .next
      (((s.transmit (buildRead blockParams s.handle.nodeAddr D)).receive 7
        Config.rxTimeout).replied [0x01#8]) := by
  obtain ⟨-, hchecksum⟩ | ⟨a, r, d, hsome, -⟩ := exec_readAccess_of_reply s rid D y hstate hD htx hrx
  · exact hchecksum
  · cases hbad.symm.trans hsome

/-- A reply with a good CRC answers the field, the reply and the request, whatever the reply echoes
(R82, R83, R87). -/
theorem exec_readAccess_of_good_reply (y : List Byte) (a r : Byte) (d : Word)
    (hstate : s.handle.hs = .ready) (hD : readable? defaultRegTable rid = some D)
    (htx : s.txAnswer = .ok) (hrx : s.rxAnswer 7 = some y)
    (hgood : parse blockParams y = some (a, r, d)) :
    let q := buildRead blockParams s.handle.nodeAddr D
    let got := (s.transmit q).receive 7 Config.rxTimeout
    exec (.readAccess rid) s =
      .next ((got.setShadowOf D d).replied (0x00#8 :: (be32 (extract d D) ++ y ++ q))) := by
  obtain ⟨hnone, -⟩ | ⟨a', r', d', hsome, hanswer⟩ :=
    exec_readAccess_of_reply s rid D y hstate hD htx hrx
  · cases hgood.symm.trans hnone
  · cases hgood.symm.trans hsome
    exact hanswer

end Readable

/-- Settles O11: the handle state, the look-up, the two collaborator answers and the reply's CRC
decide in this order how the access ends, and the descriptor found gives field and shadow. -/
theorem readAccessReadsAField : Obligations.ReadAccessReadsAField := by
  refine ⟨refusesOtherLengths_opcode .readAccess (by decide), ?decodes,
    exec_readAccess_of_uninitialized, ?invalid, ?access⟩
  case decodes =>
    intro rid
    exact decodeFrame_opcode blockParams .readAccess [rid]
  case invalid =>
    intro s rid hstate hrid
    exact exec_readAccess_of_not_readable s rid hstate (readable?_default_none rid hrid)
  case access =>
    intro s rid hstate hrid node q sent got
    obtain ⟨D, hD⟩ := readable?_default_some rid hrid
    have hq : buildRead blockParams s.handle.nodeAddr D = q :=
      buildRead_of_readable _ s.handle.nodeAddr rid D hD
    refine ⟨fun htx => ?_, fun htx hrx => ?_, fun a r d3 d2 d1 d0 c htx hrx => ?_⟩
    · rw [exec_readAccess_of_transmit_ioError s rid D hstate hD htx, hq]
    · rw [exec_readAccess_of_receive_ioError s rid D hstate hD htx hrx, hq]
    · have hparse := parse_compact7 blockParams rfl a r d3 d2 d1 d0 c
      split
      next hcrc =>
        rw [exec_readAccess_of_good_reply s rid D _ a r _ hstate hD htx hrx
          (hparse.trans (if_pos hcrc)), hq, setShadowOf_readable _ rid D _ hD,
          extract_default rid D _ hD]
        rfl
      next hcrc =>
        rw [exec_readAccess_of_bad_reply s rid D _ hstate hD htx hrx
          (hparse.trans (if_neg hcrc)), hq]

/-! ### WRITE_ACCESS -/

theorem exec_writeAccess (rid : Byte) (v : Word) (s : State) :
    exec (.writeAccess rid v) s = writeAccessWith blockParams rid v s := rfl

/-- WRITE_ACCESS before INIT is an InvalidState (R84). -/
theorem exec_writeAccess_of_uninitialized (s : State) (rid : Byte) (v : Word)
    (hstate : s.handle.hs = .uninitialized) :
    exec (.writeAccess rid v) s = .next (s.replied [0x03#8]) := by
  rw [exec_writeAccess]
  obtain ⟨-, hinvalid⟩ | ⟨hready, -⟩ | ⟨D, hready, -⟩ := writeAccessWith_cases blockParams s rid v
  · exact hinvalid
  · cases hstate.symm.trans hready
  · cases hstate.symm.trans hready

/-- WRITE_ACCESS to an identifier that is not writable is an InvalidArgument (R84). -/
theorem exec_writeAccess_of_not_writable (s : State) (rid : Byte) (v : Word)
    (hstate : s.handle.hs = .ready) (hnone : writable? defaultRegTable rid = none) :
    exec (.writeAccess rid v) s = .next (s.replied [0x07#8]) := by
  rw [exec_writeAccess]
  obtain ⟨huninit, -⟩ | ⟨-, -, hinvalid⟩ | ⟨D, -, hsome, -⟩ :=
    writeAccessWith_cases blockParams s rid v
  · cases hstate.symm.trans huninit
  · exact hinvalid
  · cases hsome.symm.trans hnone

/-- The two ways WRITE_ACCESS to a writable identifier ends in Ready: its `Transmit` fails, or the
datagram is answered and the shadow updated (R84, R85). -/
theorem exec_writeAccess_outcomes (s : State) (rid : Byte) (v : Word) (D : Descriptor)
    (hstate : s.handle.hs = .ready) (hD : writable? defaultRegTable rid = some D) :
    let full := s.mergedValue D v
    let w := buildWrite blockParams s.handle.nodeAddr D full
    (s.txAnswer = .ioError ∧
      exec (.writeAccess rid v) s = .next ((s.transmit w).replied [0x02#8])) ∨
    (s.txAnswer = .ok ∧ exec (.writeAccess rid v) s =
      .next (((s.transmit w).setShadowOf D full).replied (0x00#8 :: w))) := by
  rw [exec_writeAccess]
  obtain ⟨huninit, -⟩ | ⟨-, hnone, -⟩ | ⟨D', -, hsome, houtcomes⟩ :=
    writeAccessWith_cases blockParams s rid v
  · cases hstate.symm.trans huninit
  · cases hD.symm.trans hnone
  · obtain rfl : D' = D := Option.some.inj (hsome.symm.trans hD)
    exact houtcomes

/-- Settles O12: the handle state, the look-up and the `Transmit`'s answer decide in this order how
the access ends, and the descriptor found gives the merged value and the shadow it goes to. -/
theorem writeAccessMergesAndSends : Obligations.WriteAccessMergesAndSends := by
  refine ⟨refusesOtherLengths_opcode .writeAccess (by decide), ?decodes,
    exec_writeAccess_of_uninitialized, ?invalid, ?access⟩
  case decodes =>
    intro rid v3 v2 v1 v0
    exact decodeFrame_opcode blockParams .writeAccess [rid, v3, v2, v1, v0]
  case invalid =>
    intro s rid v hstate hrid
    exact exec_writeAccess_of_not_writable s rid v hstate (writable?_default_none rid hrid)
  case access =>
    intro s rid v hstate hrid full body w h
    obtain ⟨D, hD⟩ := writable?_default_some rid hrid
    have hfull : s.mergedValue D v = full := mergedValue_default s rid D v hD
    have hw : buildWrite blockParams s.handle.nodeAddr D full = w :=
      buildWrite_of_writable _ s.handle.nodeAddr rid D full hD
    have hshadow : (s.transmit w).setShadowOf D full = (s.transmit w).setHandle h :=
      setShadowOf_writable (s.transmit w) rid D full hD
    have houtcomes := exec_writeAccess_outcomes s rid v D hstate hD
    simp only [hfull, hw, hshadow] at houtcomes
    obtain ⟨hfail, htimeout⟩ | ⟨hok, hanswer⟩ := houtcomes
    · exact ⟨fun _ => htimeout, fun htx => (nomatch hfail.symm.trans htx)⟩
    · exact ⟨fun htx => (nomatch hok.symm.trans htx), fun _ => hanswer⟩

end Sys2Proof.Proofs.RegisterAccess
end

section
/-! Proofs of the family 44_device_handle.md: decoding and meaning of INIT and SET_MICROSTEP (R90,
R91). -/

namespace Sys2Proof.Proofs.DeviceHandle

open Sys2Proof Sys2Proof.Machine Sys2Proof.Proofs.RegisterMap Sys2Proof.Proofs.RegisterAccess

/-! ### INIT -/

theorem exec_init (n : Byte) (steps : BitVec 16) (s : State) :
    exec (.init n steps) s = initWith blockParams n steps s := rfl

/-- INIT with a node byte from 4 on is an InvalidArgument, in either handle state (R90). -/
theorem exec_init_of_invalid (s : State) (n : Byte) (steps : BitVec 16) (hn : 4 ≤ n.toNat) :
    exec (.init n steps) s = .next (s.replied [0x07#8]) := by
  rw [exec_init]
  obtain ⟨-, hinvalid⟩ | ⟨hlt, -⟩ := initWith_cases blockParams s n steps
  · exact hinvalid
  · exact absurd hlt (Nat.not_lt.mpr hn)

/-- INIT with a node byte below 4 replaces the handle and answers OK, in either handle state (R90). -/
theorem exec_init_of_node (s : State) (n : Byte) (steps : BitVec 16) (hn : n.toNat < 4) :
    exec (.init n steps) s = .next
      ((s.setHandle (Handle.initialised blockParams (n.setWidth 2) steps)).replied [0x00#8]) := by
  rw [exec_init]
  obtain ⟨hge, -⟩ | ⟨-, hanswer⟩ := initWith_cases blockParams s n steps
  · exact absurd hn (Nat.not_lt.mpr hge)
  · exact hanswer

/-- The clock constant at full step, code 8, whose multiplier is 1 (R19, R89). -/
theorem clockConstOf_block_fullStep (steps : BitVec 16) :
    clockConstOf blockParams steps 8 =
      BitVec.ofNat 48 ((steps.toNat * 2 ^ 40 + 30 * 12000000) / (60 * 12000000)) := by
  rw [clockConstOf_block, Nat.sub_self, pow_zero, mul_one]

/-- Settles O13: the node byte alone decides between InvalidArgument and the new handle, whose clock
constant is that of the steps at full step. -/
theorem initSetsEveryHandleField : Obligations.InitSetsEveryHandleField := by
  refine ⟨refusesOtherLengths_opcode .init (by decide), ?decodes, ?answers⟩
  case decodes =>
    intro n s1 s0
    exact decodeFrame_opcode blockParams .init [n, s1, s0]
  case answers =>
    intro s n steps
    split
    next hinvalid => exact exec_init_of_invalid s n steps hinvalid
    next hvalid =>
      rw [exec_init_of_node s n steps (Nat.not_le.mp hvalid), Handle.initialised,
        clockConstOf_block_fullStep]

/-! ### The CHOPCONF write of SET_MICROSTEP -/

/-- The descriptor of W_CHOPCONF in the default table, whose field is MRES (R68). -/
def wChopconf : Descriptor := ⟨0xEC#8, .wChopconf, 0x0F000000#32, 24, some .chopconf⟩

theorem lookupName_default_wChopconf : lookupName defaultRegTable .wChopconf = some wChopconf := rfl

theorem writable?_default_wChopconf : writable? defaultRegTable 0xEC#8 = some wChopconf := rfl

/-- A code of four bits fits the MRES field, so the field's mask cuts nothing off (R71). -/
theorem place_wChopconf (m : Byte) (hm : m.toNat < 16) :
    place (m.setWidth 32) wChopconf = m.setWidth 32 <<< 24 := by
  revert m; decide

/-- Merging a microstep code replaces bits 27 to 24 and keeps every other bit (R71, R91). -/
theorem merge_wChopconf (old : Word) (m : Byte) (hm : m.toNat < 16) :
    merge old (m.setWidth 32) wChopconf =
      (old &&& 0xF0FFFFFF#32) ||| (m.setWidth 32 <<< 24) := by
  rw [merge, place_wChopconf m hm]
  rfl

/-! ### SET_MICROSTEP -/

theorem exec_setMicrostep (m : Byte) (s : State) :
    exec (.setMicrostep m) s = setMicrostepWith blockParams m s := rfl

/-- SET_MICROSTEP before INIT is an InvalidState, whatever the code (R91). -/
theorem exec_setMicrostep_of_uninitialized (s : State) (m : Byte)
    (hstate : s.handle.hs = .uninitialized) :
    exec (.setMicrostep m) s = .next (s.replied [0x03#8]) := by
  rw [exec_setMicrostep]
  obtain ⟨-, hinvalid⟩ | ⟨hready, -⟩ | ⟨D, hready, -⟩ := setMicrostepWith_cases blockParams s m
  · exact hinvalid
  · cases hstate.symm.trans hready
  · cases hstate.symm.trans hready

/-- SET_MICROSTEP of a code above 8 is an InvalidArgument (R91). -/
theorem exec_setMicrostep_of_invalid (s : State) (m : Byte) (hstate : s.handle.hs = .ready)
    (hm : 8 < m.toNat) : exec (.setMicrostep m) s = .next (s.replied [0x07#8]) := by
  rw [exec_setMicrostep]
  obtain ⟨huninit, -⟩ | ⟨-, -, hinvalid⟩ | ⟨D, -, hle, -⟩ := setMicrostepWith_cases blockParams s m
  · cases hstate.symm.trans huninit
  · exact hinvalid
  · exact absurd hm (Nat.not_lt.mpr hle)

/-- The two ways SET_MICROSTEP of a legal code ends in Ready: its `Transmit` fails, or the datagram is
answered and the handle updated (R91). -/
theorem exec_setMicrostep_outcomes (s : State) (m : Byte) (hstate : s.handle.hs = .ready)
    (hm : m.toNat ≤ 8) :
    let full := merge s.handle.shadowChopconf (m.setWidth 32) wChopconf
    let w := buildWrite blockParams s.handle.nodeAddr wChopconf full
    (s.txAnswer = .ioError ∧
      exec (.setMicrostep m) s = .next ((s.transmit w).replied [0x02#8])) ∨
    (s.txAnswer = .ok ∧ exec (.setMicrostep m) s =
      .next (((s.transmit w).setHandle (s.handle.withMicrostep blockParams full m)).replied
        (0x00#8 :: w))) := by
  rw [exec_setMicrostep]
  obtain ⟨huninit, -⟩ | ⟨-, hrefused, -⟩ | ⟨D, -, -, hsome, houtcomes⟩ :=
    setMicrostepWith_cases blockParams s m
  · cases hstate.symm.trans huninit
  · obtain hgt | hnone := hrefused
    · exact absurd hgt (Nat.not_lt.mpr hm)
    · cases hnone.symm.trans lookupName_default_wChopconf
  · obtain rfl : D = wChopconf := Option.some.inj (hsome.symm.trans lookupName_default_wChopconf)
    exact houtcomes

/-- Settles O14: the handle state, the code and the `Transmit`'s answer decide in this order how the
command ends; the datagram is the CHOPCONF shadow with the code in MRES, and the clock constant
follows the code. -/
theorem setMicrostepSendsMresAndUpdates : Obligations.SetMicrostepSendsMresAndUpdates := by
  refine ⟨refusesOtherLengths_opcode .setMicrostep (by decide), ?decodes,
    exec_setMicrostep_of_uninitialized, exec_setMicrostep_of_invalid, ?legal⟩
  case decodes =>
    intro m
    exact decodeFrame_opcode blockParams .setMicrostep [m]
  case legal =>
    intro s m hstate hm full body w h
    have hfull : merge s.handle.shadowChopconf (m.setWidth 32) wChopconf = full :=
      merge_wChopconf s.handle.shadowChopconf m (by omega)
    have hw : buildWrite blockParams s.handle.nodeAddr wChopconf full = w :=
      buildWrite_of_writable _ s.handle.nodeAddr 0xEC#8 wChopconf full writable?_default_wChopconf
    have hhandle : s.handle.withMicrostep blockParams full m = h := by
      rw [Handle.withMicrostep, clockConstOf_block]
    have houtcomes := exec_setMicrostep_outcomes s m hstate hm
    simp only [hfull, hw, hhandle] at houtcomes
    obtain ⟨hfail, htimeout⟩ | ⟨hok, hanswer⟩ := houtcomes
    · exact ⟨fun _ => htimeout, fun htx => (nomatch hfail.symm.trans htx)⟩
    · exact ⟨fun htx => (nomatch hok.symm.trans htx), fun _ => hanswer⟩

end Sys2Proof.Proofs.DeviceHandle
end

section
/-! Proofs of the family 45_motion.md: decoding and meaning of SET_SPEED, SET_ANGLE and SET_ENABLE
(R94, R96, R98). -/

namespace Sys2Proof.Proofs.Motion

open Sys2Proof Sys2Proof.Machine Sys2Proof.Proofs.RegisterMap Sys2Proof.Proofs.RegisterAccess

/-! ### The velocity of SET_SPEED -/

/-- Rounding over 2^32 adds half of it to the magnitude, so ties go away from zero (R13). -/
theorem roundHalfAway_q32 (a : Int) :
    roundHalfAway a (2 ^ 32) = a.sign * (((a.natAbs + 2 ^ 31) / 2 ^ 32 : Nat) : Int) := rfl

/-- The velocity of this block, whose direction sign is +1 and whose VACTUAL has 24 bits (R93). -/
theorem velocity_block (rpm : Int) (cc : Nat) :
    velocity blockParams rpm cc =
      let v := roundHalfAway (rpm * cc) (2 ^ 32)
      if v < -8388608 ∨ 8388607 < v then none else some v := by
  have hsign : rpm * cc * signValue blockParams.directionSign = rpm * cc := mul_one _
  simp only [velocity, hsign]
  rfl

/-! ### The VACTUAL write of SET_SPEED -/

/-- The descriptor of W_VACTUAL in the default table (R68). -/
def wVactual : Descriptor := ⟨0xA2#8, .wVactual, 0x00FFFFFF#32, 0, none⟩

theorem lookupName_default_wVactual : lookupName defaultRegTable .wVactual = some wVactual := rfl

theorem writable?_default_wVactual : writable? defaultRegTable 0xA2#8 = some wVactual := rfl

/-- The VACTUAL field holds the low 24 bits (R71). -/
theorem place_wVactual (v : Word) : place v wVactual = v &&& 0x00FFFFFF#32 :=
  place_of_shift_zero v wVactual rfl

/-! ### SET_SPEED -/

theorem exec_setSpeed (rpm : Word) (s : State) :
    exec (.setSpeed rpm) s = setSpeedWith blockParams rpm s := rfl

/-- SET_SPEED before INIT is an InvalidState, whatever the speed (R94). -/
theorem exec_setSpeed_of_uninitialized (s : State) (rpm : Word)
    (hstate : s.handle.hs = .uninitialized) :
    exec (.setSpeed rpm) s = .next (s.replied [0x03#8]) := by
  rw [exec_setSpeed]
  obtain ⟨-, hinvalid⟩ | ⟨hready, -⟩ | ⟨v, hready, -⟩ := setSpeedWith_cases blockParams s rpm
  · exact hinvalid
  · cases hstate.symm.trans hready
  · cases hstate.symm.trans hready

/-- SET_SPEED of a speed with no velocity is an OutOfRange, and nothing is transmitted (R94). -/
theorem exec_setSpeed_of_outOfRange (s : State) (rpm : Word) (hstate : s.handle.hs = .ready)
    (hnone : velocity blockParams rpm.toInt s.handle.clockConst.toNat = none) :
    exec (.setSpeed rpm) s = .next (s.replied [0x04#8]) := by
  rw [exec_setSpeed]
  obtain ⟨huninit, -⟩ | ⟨-, -, hrange⟩ | ⟨v, -, hsome, -⟩ := setSpeedWith_cases blockParams s rpm
  · cases hstate.symm.trans huninit
  · exact hrange
  · cases hnone.symm.trans hsome

/-- The two ways SET_SPEED of a speed with a velocity ends in Ready: its `Transmit` fails, or the
datagram is answered; the handle is left alone in both (R94). -/
theorem exec_setSpeed_outcomes (s : State) (rpm : Word) (v : Int) (hstate : s.handle.hs = .ready)
    (hv : velocity blockParams rpm.toInt s.handle.clockConst.toNat = some v) :
    let w := buildWrite blockParams s.handle.nodeAddr wVactual (place (BitVec.ofInt 32 v) wVactual)
    (s.txAnswer = .ioError ∧
      exec (.setSpeed rpm) s = .next ((s.transmit w).replied [0x02#8])) ∨
    (s.txAnswer = .ok ∧ exec (.setSpeed rpm) s = .next ((s.transmit w).replied (0x00#8 :: w))) := by
  rw [exec_setSpeed]
  obtain ⟨huninit, -⟩ | ⟨-, hnone, -⟩ | ⟨v', -, hsome, hlookup⟩ :=
    setSpeedWith_cases blockParams s rpm
  · cases hstate.symm.trans huninit
  · cases hv.symm.trans hnone
  · obtain rfl : v' = v := Option.some.inj (hsome.symm.trans hv)
    obtain ⟨hmissing, -⟩ | ⟨D, hfound, houtcomes⟩ := hlookup
    · cases hmissing.symm.trans lookupName_default_wVactual
    · obtain rfl : D = wVactual := Option.some.inj (hfound.symm.trans lookupName_default_wVactual)
      exact houtcomes

/-- Settles O15: the handle state, the range of the rounded velocity and the `Transmit`'s answer decide
in this order how the command ends; the datagram's data is the low 24 bits of the velocity. -/
theorem setSpeedSendsVactual : Obligations.SetSpeedSendsVactual := by
  refine ⟨refusesOtherLengths_opcode .setSpeed (by decide), ?decodes,
    exec_setSpeed_of_uninitialized, ?ready⟩
  case decodes =>
    intro q3 q2 q1 q0
    exact decodeFrame_opcode blockParams .setSpeed [q3, q2, q1, q0]
  case ready =>
    intro s rpm hstate product v
    have hround : roundHalfAway product (2 ^ 32) = v := roundHalfAway_q32 product
    have hvelocity : velocity blockParams rpm.toInt s.handle.clockConst.toNat =
        if v < -8388608 ∨ 8388607 < v then none else some v := by
      rw [velocity_block, hround]
    split
    next hout => exact exec_setSpeed_of_outOfRange s rpm hstate (hvelocity.trans (if_pos hout))
    next hin =>
      intro body w
      have hw : buildWrite blockParams s.handle.nodeAddr wVactual
          (place (BitVec.ofInt 32 v) wVactual) = w := by
        rw [place_wVactual]
        exact buildWrite_of_writable _ s.handle.nodeAddr 0xA2#8 wVactual _ writable?_default_wVactual
      have houtcomes := exec_setSpeed_outcomes s rpm v hstate (hvelocity.trans (if_neg hin))
      simp only [hw] at houtcomes
      obtain ⟨hfail, htimeout⟩ | ⟨hok, hanswer⟩ := houtcomes
      · exact ⟨fun _ => htimeout, fun htx => (nomatch hfail.symm.trans htx)⟩
      · exact ⟨fun htx => (nomatch hok.symm.trans htx), fun _ => hanswer⟩

/-! ### SET_ANGLE -/

/-- The step count: the share of a turn, rounded half up, where a whole turn counts as none (R95). -/
theorem angleSteps_eq (angle steps m : Nat) :
    angleSteps angle steps m =
      let turn := steps * 2 ^ (8 - m)
      let rounded := (angle % (360 * 2 ^ 16) * turn + 180 * 2 ^ 16) / (360 * 2 ^ 16)
      if rounded = turn then 0 else rounded := by
  rw [← mult_eq]
  rfl

theorem exec_setAngle (angle : Word) (s : State) :
    exec (.setAngle angle) s = setAngleWith blockParams angle s := rfl

/-- SET_ANGLE before INIT is an InvalidState, whatever the angle (R96). -/
theorem exec_setAngle_of_uninitialized (s : State) (angle : Word)
    (hstate : s.handle.hs = .uninitialized) :
    exec (.setAngle angle) s = .next (s.replied [0x03#8]) := by
  rw [exec_setAngle]
  obtain ⟨-, hinvalid⟩ | ⟨hready, -⟩ := setAngleWith_cases blockParams s angle
  · exact hinvalid
  · cases hstate.symm.trans hready

/-- The two ways SET_ANGLE ends in Ready: a step count above 0 starts the timer, and 0 stops it
(R96). -/
theorem exec_setAngle_outcomes (s : State) (angle : Word) (hstate : s.handle.hs = .ready) :
    let c := angleSteps angle.toNat s.handle.engineSteps.toNat s.handle.microstep.toNat
    (0 < c ∧ exec (.setAngle angle) s =
      .next ((s.timerStart (BitVec.ofNat 32 c) Config.pulseRate).replied
        (0x00#8 :: be32 (BitVec.ofNat 32 c)))) ∨
    (c = 0 ∧ exec (.setAngle angle) s =
      .next (s.timerStop.replied (0x00#8 :: be32 (BitVec.ofNat 32 c)))) := by
  rw [exec_setAngle]
  obtain ⟨huninit, -⟩ | ⟨-, houtcomes⟩ := setAngleWith_cases blockParams s angle
  · cases hstate.symm.trans huninit
  · exact houtcomes

/-- Settles O16: the handle state decides whether the angle is taken, and whether its step count is 0
decides between the two timer events. The model needs no bound on the microstep code: the multiplier
it gives to a code above 8 is that of the statement's formula. -/
theorem setAngleStartsTheTimer : Obligations.SetAngleStartsTheTimer := by
  refine ⟨refusesOtherLengths_opcode .setAngle (by decide), ?decodes,
    exec_setAngle_of_uninitialized, ?ready⟩
  case decodes =>
    intro a3 a2 a1 a0
    exact decodeFrame_opcode blockParams .setAngle [a3, a2, a1, a0]
  case ready =>
    intro s angle hstate _ turn rounded count
    have hcount : angleSteps angle.toNat s.handle.engineSteps.toNat s.handle.microstep.toNat =
        count := angleSteps_eq ..
    have houtcomes := exec_setAngle_outcomes s angle hstate
    simp only [hcount] at houtcomes
    obtain ⟨hpos, hstarts⟩ | ⟨hzero, hstops⟩ := houtcomes
    · rw [if_pos hpos]
      exact hstarts
    · rw [if_neg (Nat.not_lt.mpr hzero.le), hstops, hzero]
      rfl

/-! ### SET_ENABLE -/

/-- SET_ENABLE is Unsupported, in either handle state and for every operand (R98). -/
theorem exec_setEnable (s : State) (e : Byte) :
    exec (.setEnable e) s = .next (s.replied [0x05#8]) :=
  calc
    exec (.setEnable e) s = s.raise .unsupported := rfl
    _ = .next (s.replied [0x05#8]) := s.raise_eq .unsupported

/-- Settles O17: the one meaning of SET_ENABLE is the raise. -/
theorem setEnableIsUnsupported : Obligations.SetEnableIsUnsupported := by
  refine ⟨refusesOtherLengths_opcode .setEnable (by decide), ?decodes, exec_setEnable⟩
  case decodes =>
    intro e
    exact decodeFrame_opcode blockParams .setEnable [e]

end Sys2Proof.Proofs.Motion
end

section
/-! Proofs about the whole decoder and encoder (30_encoding.md R46 to R60): they are inverse to each
other. -/

namespace Sys2Proof.Proofs.Codec

open Sys2Proof Sys2Proof.Machine

/-! ### The fields of a datagram (R54, R55, R56) -/

/-- Bits 7 to 2 of a node's byte are 0, and the node is bits 1 and 0. -/
theorem node_fields (n : BitVec 2) :
    (n.setWidth 8 : Byte).extractLsb' 2 6 = 0 ∧ (n.setWidth 8 : Byte).extractLsb' 0 2 = n := by
  revert n; decide

/-- A byte whose bits 7 to 2 are 0 is the byte of its node. -/
theorem node_byte (b : Byte) (h : b.extractLsb' 2 6 = 0) :
    (b.extractLsb' 0 2 : BitVec 2).setWidth 8 = b := by
  revert b; decide

/-- The register byte of a write datagram gives its address back. -/
theorem writeReg_addr (r : BitVec 7) : (r.setWidth 8 ||| 0x80#8 : Byte).extractLsb' 0 7 = r := by
  revert r; decide

/-- The register byte of a read request gives its address back. -/
theorem readReg_addr (r : BitVec 7) : (r.setWidth 8 : Byte).extractLsb' 0 7 = r := by
  revert r; decide

/-- A register byte with the write flag is that of its address in a write datagram. -/
theorem writeReg_byte (b : Byte) (h : b.getLsbD 7 = true) :
    (b.extractLsb' 0 7 : BitVec 7).setWidth 8 ||| 0x80#8 = b := by
  revert b; decide

/-- A register byte without the write flag is that of its address in a read request. -/
theorem readReg_byte (b : Byte) (h : b.getLsbD 7 = false) :
    (b.extractLsb' 0 7 : BitVec 7).setWidth 8 = b := by
  revert b; decide

/-! ### Decoding an encoding -/

/-- The count byte of a well-formed CALC_CRC is the number of its bytes (R48). -/
theorem calcCrc_count (d : List Byte) (h : d.length ≤ 255) :
    d.length = (BitVec.ofNat 8 d.length).toNat := by
  rw [BitVec.toNat_ofNat, Nat.mod_eq_of_lt (by omega)]

/-- Every write datagram decodes to its fields (R55). -/
theorem decodeToSend_writeBody (n : BitVec 2) (r : BitVec 7) (d : Word) (c : Byte) :
    decodeToSend (writeBody n r d ++ [c]) = .ok (.dgramWrite n r d c) := by
  obtain ⟨hhigh, hnode⟩ := node_fields n
  refine (if_pos ⟨rfl, rfl, hhigh, write_flag r⟩).trans ?_
  rw [hnode, writeReg_addr, unbe32_be32]

/-- Every read request decodes to its fields (R56). -/
theorem decodeToSend_readBody (n : BitVec 2) (r : BitVec 7) (c : Byte) :
    decodeToSend (readBody n r ++ [c]) = .ok (.dgramReadRequest n r c) := by
  obtain ⟨hhigh, hnode⟩ := node_fields n
  rw [readBody_eq]
  refine (if_pos ⟨rfl, rfl, hhigh, read_flag r⟩).trans ?_
  rw [hnode, readReg_addr]

/-- A frame decodes to what its operands decode to. -/
theorem decodePacket_of_operands (P : Params) (o : Opcode) (args : List Byte) (i : Instr)
    (h : decodeOperands P o args = .ok i) :
    decodePacket P (.command (opcodeByte o :: args)) = .ok i :=
  (decodeFrame_opcode P o args).trans h

/-- Settles O3: each command's operands are read back from their bytes, where well-formedness makes
the count of CALC_CRC and the length of a reply fit, and each datagram's fields from theirs. -/
theorem decodeInvertsEncode : Obligations.DecodeInvertsEncode := by
  intro P i hwf
  cases i with
  | init n steps =>
    exact decodePacket_of_operands P .init (n :: be16 steps) _
      (congrArg (fun steps => Except.ok (Instr.init n steps)) (unbe16_be16 steps))
  | calcCrc d =>
    exact decodePacket_of_operands P .calcCrc (BitVec.ofNat 8 d.length :: d) _
      (if_pos (calcCrc_count d (of_decide_eq_true hwf)))
  | maskFor r => exact decodePacket_of_operands P .maskFor [r] _ rfl
  | buildWrite n r d =>
    exact decodePacket_of_operands P .buildWrite (n :: r :: be32 d) _
      (congrArg (fun d => Except.ok (Instr.buildWrite n r d)) (unbe32_be32 d))
  | buildRead n r => exact decodePacket_of_operands P .buildRead [n, r] _ rfl
  | parseReply p =>
    exact decodePacket_of_operands P .parseReply p _ (if_pos (of_decide_eq_true hwf))
  | readAccess r => exact decodePacket_of_operands P .readAccess [r] _ rfl
  | writeAccess r v =>
    exact decodePacket_of_operands P .writeAccess (r :: be32 v) _
      (congrArg (fun v => Except.ok (Instr.writeAccess r v)) (unbe32_be32 v))
  | setSpeed q =>
    exact decodePacket_of_operands P .setSpeed (be32 q) _
      (congrArg (fun q => Except.ok (Instr.setSpeed q)) (unbe32_be32 q))
  | setAngle a =>
    exact decodePacket_of_operands P .setAngle (be32 a) _
      (congrArg (fun a => Except.ok (Instr.setAngle a)) (unbe32_be32 a))
  | setMicrostep m => exact decodePacket_of_operands P .setMicrostep [m] _ rfl
  | setEnable e => exact decodePacket_of_operands P .setEnable [e] _ rfl
  | dgramWrite n r d c => exact decodeToSend_writeBody n r d c
  | dgramReadRequest n r c => exact decodeToSend_readBody n r c
  | dgramReadReply p => exact if_pos (of_decide_eq_true hwf)

/-! ### Encoding what was decoded -/

/-- The operands of an opcode are the encoding of what they decode to, after its byte. -/
theorem encode_of_decodeOperands (P : Params) (o : Opcode) (args : List Byte) (i : Instr)
    (h : decodeOperands P o args = .ok i) : encode i = .command (opcodeByte o :: args) := by
  cases o <;> simp only [decodeOperands] at h
  case calcCrc =>
    cases args with
    | nil => cases h
    | cons n d =>
      by_cases hcount : d.length = n.toNat
      · cases (if_pos hcount).symm.trans h
        simp [encode, encodeBytes, hcount]
      · cases (if_neg hcount).symm.trans h
  case parseReply =>
    split at h <;> cases h
    rfl
  all_goals
    split at h <;> cases h
    simp [encode, encodeBytes, be32_unbe32, be16_unbe16]

/-- A frame is the encoding of what it decodes to. -/
theorem encode_of_decodeFrame (P : Params) (f : List Byte) (i : Instr)
    (h : decodeFrame P f = .ok i) : encode i = .command f := by
  cases f with
  | nil => cases h
  | cons op args =>
    cases ho : opcodeOf? op with
    | none => simp [decodeFrame, ho] at h
    | some o =>
      obtain rfl := opcodeOf?_some op o ho
      exact encode_of_decodeOperands P o args i ((decodeFrame_opcode P o args).symm.trans h)

/-- A datagram to be transmitted is the encoding of what it decodes to. -/
theorem encode_of_decodeToSend (b : List Byte) (i : Instr) (h : decodeToSend b = .ok i) :
    encode i = .toSend b := by
  unfold decodeToSend at h
  split at h
  case h_1 =>
    split at h <;> cases h
    next hform =>
      obtain ⟨rfl, rfl, hnode, hflag⟩ := hform
      simp [encode, encodeBytes, writeBody, node_byte _ hnode, writeReg_byte _ hflag, be32_unbe32]
  case h_2 =>
    split at h <;> cases h
    next hform =>
      obtain ⟨rfl, rfl, hnode, hflag⟩ := hform
      simp only [encode, encodeBytes, readBody_eq, node_byte _ hnode, readReg_byte _ hflag]
      rfl
  case h_3 => cases h

/-- A datagram to be parsed is the encoding of what it decodes to. -/
theorem encode_of_decodeToParse (P : Params) (b : List Byte) (i : Instr)
    (h : decodeToParse P b = .ok i) : encode i = .toParse b := by
  unfold decodeToParse at h
  split at h <;> cases h
  rfl

/-- Settles O4: for each of the three kinds of packet, the bytes the decoder took are those the
encoder writes. -/
theorem encodeInvertsDecode : Obligations.EncodeInvertsDecode := by
  intro P p i h
  cases p with
  | command f => exact encode_of_decodeFrame P f i h
  | toSend b => exact encode_of_decodeToSend b i h
  | toParse b => exact encode_of_decodeToParse P b i h

/-- Settles O5: the nine packets are closed terms, which the decoder evaluates. -/
theorem decoderReadsTheSpecsWords : Obligations.DecoderReadsTheSpecsWords := by
  unfold Obligations.DecoderReadsTheSpecsWords
  decide

end Sys2Proof.Proofs.Codec
end

section
/-! What an instruction can do, said once for all fifteen: it performs collaborator events that
leave the handle alone, and then raises, answers with the handle written, or, for a datagram alone,
ends without a response. The statements about the whole machine follow from this. -/

namespace Sys2Proof.Proofs.Effects

open Sys2Proof Sys2Proof.Machine Sys2Proof.Proofs.RegisterAccess Sys2Proof.Proofs.DeviceHandle
  Sys2Proof.Proofs.Motion

/-! ### Commands and datagrams -/

/-- The instruction is one that a command frame encodes, and no datagram (R46). -/
def IsCommand (i : Instr) : Prop := ∃ f, encode i = .command f

theorem not_isCommand_dgramWrite (n : BitVec 2) (r : BitVec 7) (d : Word) (c : Byte) :
    ¬ IsCommand (.dgramWrite n r d c) := by
  rintro ⟨f, h⟩
  cases h

theorem not_isCommand_dgramReadRequest (n : BitVec 2) (r : BitVec 7) (c : Byte) :
    ¬ IsCommand (.dgramReadRequest n r c) := by
  rintro ⟨f, h⟩
  cases h

theorem not_isCommand_dgramReadReply (p : List Byte) : ¬ IsCommand (.dgramReadReply p) := by
  rintro ⟨f, h⟩
  cases h

/-! ### The datagrams that are transmitted -/

/-- A write body with its CRC is a well-formed datagram (R55, R80). -/
theorem transmitOk_writeBody (P : Params) (n : BitVec 2) (r : BitVec 7) (d : Word) :
    transmitOk P (sealed P (writeBody n r d)) = true := by
  have hnode : n.toNat < 4 := n.isLt
  simp [transmitOk, sealed, writeBody, be32, Nat.mod_eq_of_lt (by omega : n.toNat < 256), hnode]

/-- A read-request body with its CRC is a well-formed datagram (R56, R80). -/
theorem transmitOk_readBody (P : Params) (n : BitVec 2) (r : BitVec 7) :
    transmitOk P (sealed P (readBody n r)) = true := by
  have hnode : n.toNat < 4 := n.isLt
  simp [transmitOk, sealed, readBody_eq, Nat.mod_eq_of_lt (by omega : n.toNat < 256), hnode]

/-- The register byte of a write datagram is the identifier of its descriptor in the table. -/
theorem eventListed_buildWrite (rid : Byte) (D : Descriptor) (node : BitVec 2) (data : Word)
    (hD : writable? defaultRegTable rid = some D) :
    eventListed blockParams (.transmit (buildWrite blockParams node D data)) = true := by
  obtain ⟨hmem, hrid, -⟩ := writable?_some _ rid D hD
  rw [buildWrite_of_writable _ node rid D data hD]
  exact List.any_eq_true.mpr ⟨D, hmem, beq_iff_eq.mpr hrid⟩

/-- The register byte of a read request is the identifier of its descriptor in the table. -/
theorem eventListed_buildRead (rid : Byte) (D : Descriptor) (node : BitVec 2)
    (hD : readable? defaultRegTable rid = some D) :
    eventListed blockParams (.transmit (buildRead blockParams node D)) = true := by
  obtain ⟨hmem, hrid, -⟩ := readable?_some _ rid D hD
  rw [buildRead_of_readable _ node rid D hD]
  exact List.any_eq_true.mpr ⟨D, hmem, beq_iff_eq.mpr hrid⟩

/-! ### The events before the end -/

/-- An event an instruction can perform before it ends: a well-formed collaborator event, and under
a command one for a register of the table. -/
structure EventAllowed (i : Instr) (e : Event) : Prop where
  notResponse : isResponse e = false
  wellFormed : eventOk blockParams e = true
  listed : IsCommand i → eventListed blockParams e = true

/-- `s'` is `s` after collaborator events of the instruction: only the trace and the UART's answers
have moved on. -/
structure Performed (i : Instr) (s s' : State) : Prop where
  handle : s'.handle = s.handle
  inbox : s'.inbox = s.inbox
  transmitAnswers : transmits i = false → s'.txAnswers = s.txAnswers ∧ s'.txCount = s.txCount
  receiveAnswers : receives i = false → s'.rxAnswers = s.rxAnswers ∧ s'.rxCount = s.rxCount
  trace : ∃ evs, s'.trace = s.trace ++ evs ∧ ∀ e ∈ evs, EventAllowed i e

variable {i : Instr} {s s' : State}

theorem Performed.nothing : Performed i s s where
  handle := rfl
  inbox := rfl
  transmitAnswers := fun _ => ⟨rfl, rfl⟩
  receiveAnswers := fun _ => ⟨rfl, rfl⟩
  trace := ⟨[], by simp⟩

/-- Events that use up no answer of the UART: those of the timer. -/
theorem Performed.emit (hs : Performed i s s') {e : Event} (he : EventAllowed i e) :
    Performed i s (s'.emit e) := by
  obtain ⟨evs, htrace, hevs⟩ := hs.trace
  refine ⟨hs.handle, hs.inbox, hs.transmitAnswers, hs.receiveAnswers, evs ++ [e], ?_, ?_⟩
  · simp [htrace]
  · simpa [or_imp, forall_and] using ⟨hevs, he⟩

/-- A `Transmit` under an instruction that has one. -/
theorem Performed.transmit (hs : Performed i s s') {w : List Byte} (hi : transmits i = true)
    (hw : EventAllowed i (.transmit w)) : Performed i s (s'.transmit w) := by
  obtain ⟨hhandle, hinbox, -, hreceive, htrace⟩ := hs.emit hw
  exact ⟨hhandle, hinbox, fun h => absurd hi (by simp [h]), hreceive, htrace⟩

/-- A `Receive` of a reply under an instruction that has one. -/
theorem Performed.receive (hs : Performed i s s') (hi : receives i = true) :
    Performed i s (s'.receive blockParams.replyLayout.len blockParams.rxTimeout) := by
  have hallowed : EventAllowed i (.receive blockParams.replyLayout.len blockParams.rxTimeout) :=
    ⟨rfl, by simp [eventOk], fun _ => rfl⟩
  obtain ⟨hhandle, hinbox, htransmit, -, htrace⟩ := hs.emit hallowed
  exact ⟨hhandle, hinbox, htransmit, fun h => absurd hi (by simp [h]), htrace⟩

/-- The write datagram of a descriptor of the table. -/
theorem allowed_buildWrite (rid : Byte) (D : Descriptor) (node : BitVec 2) (data : Word)
    (hD : writable? defaultRegTable rid = some D) :
    EventAllowed i (.transmit (buildWrite blockParams node D data)) :=
  ⟨rfl, transmitOk_writeBody .., fun _ => eventListed_buildWrite rid D node data hD⟩

/-- The read request of a descriptor of the table. -/
theorem allowed_buildRead (rid : Byte) (D : Descriptor) (node : BitVec 2)
    (hD : readable? defaultRegTable rid = some D) :
    EventAllowed i (.transmit (buildRead blockParams node D)) :=
  ⟨rfl, transmitOk_readBody .., fun _ => eventListed_buildRead rid D node hD⟩

/-- A start of the timer with a step count above 0 (R96, R108). -/
theorem allowed_timerStart (angle : Nat) (steps : BitVec 16) (m : Nat)
    (hpos : 0 < angleSteps angle steps.toNat m) :
    EventAllowed i (.timerStart (BitVec.ofNat 32 (angleSteps angle steps.toNat m))
      Config.pulseRate) := by
  have hlt := angleSteps_lt_24 angle steps m
  have hcount : (BitVec.ofNat 32 (angleSteps angle steps.toNat m)).toNat =
      angleSteps angle steps.toNat m :=
    (BitVec.toNat_ofNat ..).trans (Nat.mod_eq_of_lt (by omega))
  refine ⟨rfl, ?_, fun _ => rfl⟩
  simp only [eventOk, hcount, Bool.and_eq_true, decide_eq_true_eq]
  exact ⟨⟨hpos, hlt⟩, beq_self_eq_true _⟩

/-! ### The handle writes -/

/-- The handle an instruction that answers OK can leave (R83, R85, R90, R91). -/
inductive Written (h : Handle) : Instr → Handle → Prop
  | unchanged (i : Instr) : Written h i h
  | initialised (n : Byte) (steps : BitVec 16) (hn : n.toNat < 4) :
    Written h (.init n steps) (Handle.initialised blockParams (n.setWidth 2) steps)
  | microstep (m : Byte) (full : Word) (hm : m.toNat ≤ 8) :
    Written h (.setMicrostep m) (h.withMicrostep blockParams full m)
  | refreshed (rid : Byte) (D : Descriptor) (sh : Shadow) (v : Word)
    (hD : readable? defaultRegTable rid = some D) (hsh : D.shadow = some sh) :
    Written h (.readAccess rid) (h.setShadow sh v)
  | stored (rid : Byte) (D : Descriptor) (sh : Shadow) (v w : Word)
    (hD : writable? defaultRegTable rid = some D) (hsh : D.shadow = some sh) :
    Written h (.writeAccess rid w) (h.setShadow sh v)

/-! ### The end -/

/-- The ways an instruction ends in `t` from `s`. -/
inductive Ends (i : Instr) (s : State) : State → Prop
  | raised (s' : State) (e : Status) (hs : Performed i s s') (he : e ∈ mayRaise i) :
    Ends i s (s'.replied [e.code])
  | answered (s' : State) (h : Handle) (p : List Byte) (hs : Performed i s s')
    (hw : Written s.handle i h) : Ends i s ((s'.setHandle h).replied (0x00#8 :: p))
  | silent (s' : State) (hs : Performed i s s') (hi : ¬ IsCommand i) : Ends i s s'

/-- The instruction answers a next state, in which it ends. -/
def Completes (i : Instr) (s : State) : Prop := ∃ t, exec i s = .next t ∧ Ends i s t

theorem completes_raised (e : Status) (hs : Performed i s s')
    (hexec : exec i s = .next (s'.replied [e.code])) (he : e ∈ mayRaise i := by simp [mayRaise]) :
    Completes i s :=
  ⟨_, hexec, .raised s' e hs he⟩

/-- An answer that leaves the handle alone. -/
theorem completes_answered {p : List Byte} (hs : Performed i s s')
    (hexec : exec i s = .next (s'.replied (0x00#8 :: p))) : Completes i s := by
  have hsame : s'.setHandle s.handle = s' := by rw [← hs.handle]; rfl
  refine ⟨_, hexec, ?_⟩
  rw [← hsame]
  exact .answered s' s.handle p hs (.unchanged i)

/-- An answer that writes the shadow of a descriptor, where it has one. -/
theorem completes_answered_shadow {p : List Byte} {D : Descriptor} {v : Word}
    (hs : Performed i s s')
    (hw : ∀ sh, D.shadow = some sh → Written s.handle i (s.handle.setShadow sh v))
    (hexec : exec i s = .next ((s'.setShadowOf D v).replied (0x00#8 :: p))) : Completes i s := by
  obtain ⟨-, hkept⟩ | ⟨sh, hsh, hset⟩ := s'.setShadowOf_cases D v
  · exact completes_answered hs (hkept ▸ hexec)
  · rw [hset, hs.handle] at hexec
    exact ⟨_, hexec, .answered s' _ p hs (hw sh hsh)⟩

/-! ### Each instruction completes -/

theorem completes_init (n : Byte) (steps : BitVec 16) : Completes (.init n steps) s := by
  obtain ⟨-, hexec⟩ | ⟨hn, hexec⟩ := initWith_cases blockParams s n steps
  · exact completes_raised .invalidArgument .nothing hexec
  · exact ⟨_, hexec, .answered s _ [] .nothing (.initialised n steps hn)⟩

theorem completes_calcCrc (d : List Byte) : Completes (.calcCrc d) s := by
  obtain ⟨-, hexec⟩ | ⟨-, hexec⟩ := calcCrcWith_cases blockParams s d
  · exact completes_raised .invalidArgument .nothing hexec
  · exact completes_answered .nothing hexec

theorem completes_maskFor (rid : Byte) : Completes (.maskFor rid) s := by
  obtain ⟨-, hexec⟩ | ⟨D, -, hexec⟩ := maskForWith_cases blockParams s rid
  · exact completes_raised .invalidArgument .nothing hexec
  · exact completes_answered .nothing hexec

theorem completes_buildWrite (n rid : Byte) (d : Word) : Completes (.buildWrite n rid d) s := by
  obtain hexec | ⟨m, D, -, -, hexec⟩ := buildWriteWith_cases blockParams s n rid d
  · exact completes_raised .invalidArgument .nothing hexec
  · exact completes_answered .nothing hexec

theorem completes_buildRead (n rid : Byte) : Completes (.buildRead n rid) s := by
  obtain hexec | ⟨m, D, -, -, hexec⟩ := buildReadWith_cases blockParams s n rid
  · exact completes_raised .invalidArgument .nothing hexec
  · exact completes_answered .nothing hexec

theorem completes_parseReply (p : List Byte) : Completes (.parseReply p) s := by
  obtain ⟨-, hexec⟩ | ⟨-, -, hexec⟩ | ⟨a, r, d, -, -, hexec⟩ := parseReplyWith_cases blockParams s p
  · exact completes_raised .illegalCommand .nothing hexec
  · exact completes_raised .checksumError .nothing hexec
  · exact completes_answered .nothing hexec

theorem completes_readAccess (rid : Byte) : Completes (.readAccess rid) s := by
  obtain ⟨-, hexec⟩ | ⟨-, -, hexec⟩ | ⟨D, -, hD, houtcomes⟩ :=
    readAccessWith_cases blockParams s rid
  · exact completes_raised .invalidState .nothing hexec
  · exact completes_raised .invalidArgument .nothing hexec
  · have hsent : Performed (.readAccess rid) s
        (s.transmit (buildRead blockParams s.handle.nodeAddr D)) :=
      Performed.nothing.transmit rfl (allowed_buildRead rid D _ hD)
    have hgot := hsent.receive rfl
    obtain ⟨-, hexec⟩ | ⟨-, -, hexec⟩ | ⟨y, -, -, ⟨-, hexec⟩ | ⟨a, r, d, -, hexec⟩⟩ := houtcomes
    · exact completes_raised .ioTimeoutError hsent hexec
    · exact completes_raised .ioTimeoutError hgot hexec
    · exact completes_raised .checksumError hgot hexec
    · exact completes_answered_shadow hgot (fun sh hsh => .refreshed rid D sh d hD hsh) hexec

theorem completes_writeAccess (rid : Byte) (v : Word) : Completes (.writeAccess rid v) s := by
  obtain ⟨-, hexec⟩ | ⟨-, -, hexec⟩ | ⟨D, -, hD, houtcomes⟩ :=
    writeAccessWith_cases blockParams s rid v
  · exact completes_raised .invalidState .nothing hexec
  · exact completes_raised .invalidArgument .nothing hexec
  · have hsent : Performed (.writeAccess rid v) s
        (s.transmit (buildWrite blockParams s.handle.nodeAddr D (s.mergedValue D v))) :=
      Performed.nothing.transmit rfl (allowed_buildWrite rid D _ _ hD)
    obtain ⟨-, hexec⟩ | ⟨-, hexec⟩ := houtcomes
    · exact completes_raised .ioTimeoutError hsent hexec
    · exact completes_answered_shadow hsent (fun sh hsh => .stored rid D sh _ v hD hsh) hexec

theorem completes_setSpeed (rpm : Word) : Completes (.setSpeed rpm) s := by
  cases hstate : s.handle.hs with
  | uninitialized =>
    exact completes_raised .invalidState .nothing (exec_setSpeed_of_uninitialized s rpm hstate)
  | ready =>
    cases hv : velocity blockParams rpm.toInt s.handle.clockConst.toNat with
    | none =>
      exact completes_raised .outOfRange .nothing (exec_setSpeed_of_outOfRange s rpm hstate hv)
    | some v =>
      have hsent : Performed (.setSpeed rpm) s (s.transmit (buildWrite blockParams
          s.handle.nodeAddr wVactual (place (BitVec.ofInt 32 v) wVactual))) :=
        Performed.nothing.transmit rfl (allowed_buildWrite _ _ _ _ writable?_default_wVactual)
      obtain ⟨-, hexec⟩ | ⟨-, hexec⟩ := exec_setSpeed_outcomes s rpm v hstate hv
      · exact completes_raised .ioTimeoutError hsent hexec
      · exact completes_answered hsent hexec

theorem completes_setAngle (angle : Word) : Completes (.setAngle angle) s := by
  obtain ⟨-, hexec⟩ | ⟨-, ⟨hpos, hexec⟩ | ⟨-, hexec⟩⟩ := setAngleWith_cases blockParams s angle
  · exact completes_raised .invalidState .nothing hexec
  · exact completes_answered (Performed.nothing.emit (allowed_timerStart _ _ _ hpos)) hexec
  · have hstop : EventAllowed (.setAngle angle) .timerStop := ⟨rfl, rfl, fun _ => rfl⟩
    exact completes_answered (Performed.nothing.emit hstop) hexec

theorem completes_setMicrostep (m : Byte) : Completes (.setMicrostep m) s := by
  cases hstate : s.handle.hs with
  | uninitialized =>
    exact completes_raised .invalidState .nothing (exec_setMicrostep_of_uninitialized s m hstate)
  | ready =>
    by_cases hm : m.toNat ≤ 8
    · have hsent : Performed (.setMicrostep m) s (s.transmit (buildWrite blockParams
          s.handle.nodeAddr wChopconf
          (merge s.handle.shadowChopconf (m.setWidth 32) wChopconf))) :=
        Performed.nothing.transmit rfl (allowed_buildWrite _ _ _ _ writable?_default_wChopconf)
      obtain ⟨-, hexec⟩ | ⟨-, hexec⟩ := exec_setMicrostep_outcomes s m hstate hm
      · exact completes_raised .ioTimeoutError hsent hexec
      · exact ⟨_, hexec, .answered _ _ _ hsent (.microstep m _ hm)⟩
    · exact completes_raised .invalidArgument .nothing
        (exec_setMicrostep_of_invalid s m hstate (Nat.not_le.mp hm))

theorem completes_setEnable (e : Byte) : Completes (.setEnable e) s :=
  completes_raised .unsupported .nothing (exec_setEnable s e)

theorem completes_dgramWrite (n : BitVec 2) (r : BitVec 7) (d : Word) (c : Byte) :
    Completes (.dgramWrite n r d c) s := by
  have hdatagram := not_isCommand_dgramWrite n r d c
  obtain ⟨-, hexec⟩ | ⟨rfl, -, hexec⟩ | ⟨rfl, -, hexec⟩ :=
    dgramWriteWith_cases blockParams s n r d c
  case inl => exact completes_raised .checksumError .nothing hexec
  all_goals
    have hsent := (Performed.nothing (s := s)).transmit rfl
      ⟨rfl, transmitOk_writeBody blockParams n r d, fun h => absurd h hdatagram⟩
  case inr.inl => exact completes_raised .ioTimeoutError hsent hexec
  case inr.inr => exact ⟨_, hexec, .silent _ hsent hdatagram⟩

theorem completes_dgramReadRequest (n : BitVec 2) (r : BitVec 7) (c : Byte) :
    Completes (.dgramReadRequest n r c) s := by
  have hdatagram := not_isCommand_dgramReadRequest n r c
  obtain ⟨-, hexec⟩ | ⟨rfl, houtcomes⟩ := dgramReadRequestWith_cases blockParams s n r c
  · exact completes_raised .checksumError .nothing hexec
  · have hsent := (Performed.nothing (s := s)).transmit rfl
      ⟨rfl, transmitOk_readBody blockParams n r, fun h => absurd h hdatagram⟩
    have hgot := hsent.receive rfl
    obtain ⟨-, hexec⟩ | ⟨-, -, hexec⟩ | ⟨y, -, -, ⟨-, hexec⟩ | ⟨a, r', d, -, hexec⟩⟩ := houtcomes
    · exact completes_raised .ioTimeoutError hsent hexec
    · exact completes_raised .ioTimeoutError hgot hexec
    · exact completes_raised .checksumError hgot hexec
    · exact completes_answered hgot hexec

theorem completes_dgramReadReply (p : List Byte) : Completes (.dgramReadReply p) s := by
  obtain ⟨-, hexec⟩ | ⟨-, -, hexec⟩ | ⟨a, r, d, -, -, hexec⟩ :=
    dgramReadReplyWith_cases blockParams s p
  · exact ⟨s, hexec, .silent s .nothing (not_isCommand_dgramReadReply p)⟩
  · exact completes_raised .checksumError .nothing hexec
  · exact completes_answered .nothing hexec

/-- Every instruction, in every state, answers a next state and ends in one of the ways of `Ends`.
-/
theorem completes (i : Instr) (s : State) : Completes i s := by
  cases i with
  | init n steps => exact completes_init n steps
  | calcCrc d => exact completes_calcCrc d
  | maskFor rid => exact completes_maskFor rid
  | buildWrite n rid d => exact completes_buildWrite n rid d
  | buildRead n rid => exact completes_buildRead n rid
  | parseReply p => exact completes_parseReply p
  | readAccess rid => exact completes_readAccess rid
  | writeAccess rid v => exact completes_writeAccess rid v
  | setSpeed rpm => exact completes_setSpeed rpm
  | setAngle angle => exact completes_setAngle angle
  | setMicrostep m => exact completes_setMicrostep m
  | setEnable e => exact completes_setEnable e
  | dgramWrite n r d c => exact completes_dgramWrite n r d c
  | dgramReadRequest n r c => exact completes_dgramReadRequest n r c
  | dgramReadReply p => exact completes_dgramReadReply p

/-- The inversion of `exec`: where an instruction answers `t`, it ends in `t`. -/
theorem ends_of_exec {t : State} (h : exec i s = .next t) : Ends i s t := by
  obtain ⟨t', hexec, hends⟩ := completes i s
  cases hexec.symm.trans h
  exact hends

/-! ### The handle after an instruction -/

section HandleWrites

variable {i : Instr} {h h' : Handle}

/-- Only INIT writes `HS`, the node and the steps (R22). -/
theorem Written.identity_kept (hw : Written h i h') (hi : ∀ n st, i ≠ .init n st) :
    h'.hs = h.hs ∧ h'.nodeAddr = h.nodeAddr ∧ h'.engineSteps = h.engineSteps := by
  cases hw with
  | initialised n st hn => exact absurd rfl (hi n st)
  | unchanged | microstep | refreshed | stored => simp

/-- Only INIT and SET_MICROSTEP write the code and the clock constant (R22). -/
theorem Written.microstep_kept (hw : Written h i h') (hi : ∀ n st, i ≠ .init n st)
    (hm : ∀ m, i ≠ .setMicrostep m) :
    h'.microstep = h.microstep ∧ h'.clockConst = h.clockConst := by
  cases hw with
  | initialised n st hn => exact absurd rfl (hi n st)
  | microstep m full hle => exact absurd rfl (hm m)
  | unchanged | refreshed | stored => simp

/-- Only four commands write the handle at all (R22). -/
theorem Written.handle_kept (hw : Written h i h') (hi : ∀ n st, i ≠ .init n st)
    (hm : ∀ m, i ≠ .setMicrostep m) (hr : ∀ r, i ≠ .readAccess r)
    (hv : ∀ r v, i ≠ .writeAccess r v) : h' = h := by
  cases hw with
  | unchanged => rfl
  | initialised n st hn => exact absurd rfl (hi n st)
  | microstep m full hle => exact absurd rfl (hm m)
  | refreshed rid D sh v hD hsh => exact absurd rfl (hr rid)
  | stored rid D sh v w hD hsh => exact absurd rfl (hv rid w)

/-- The shadows the readable identifiers refresh (R68, R83). -/
theorem readable?_default_shadow (rid : Byte) (D : Descriptor) (sh : Shadow)
    (hD : readable? defaultRegTable rid = some D) (hsh : D.shadow = some sh) :
    (sh = .gconf ∧ rid = 0x00#8) ∨ (sh = .chopconf ∧ rid = 0x6C#8) := by
  obtain ⟨rfl, rfl⟩ | ⟨rfl, rfl⟩ | ⟨rfl, rfl⟩ := readable?_default_cases rid D hD <;> cases hsh
  · exact .inl ⟨rfl, rfl⟩
  · exact .inr ⟨rfl, rfl⟩

/-- The shadows the writable identifiers update (R68, R85). -/
theorem writable?_default_shadow (rid : Byte) (D : Descriptor) (sh : Shadow)
    (hD : writable? defaultRegTable rid = some D) (hsh : D.shadow = some sh) :
    (sh = .gconf ∧ rid = 0x80#8) ∨ (sh = .nodeconf ∧ rid = 0x83#8) ∨
      (sh = .chopconf ∧ rid = 0xEC#8) := by
  obtain ⟨rfl, rfl⟩ | ⟨rfl, rfl⟩ | ⟨rfl, rfl⟩ | ⟨rfl, rfl⟩ := writable?_default_cases rid D hD <;>
    cases hsh
  · exact .inl ⟨rfl, rfl⟩
  · exact .inr (.inl ⟨rfl, rfl⟩)
  · exact .inr (.inr ⟨rfl, rfl⟩)

/-- Only INIT and the accesses of GCONF write its shadow (R22). -/
theorem Written.gconf_kept (hw : Written h i h') (hi : ∀ n st, i ≠ .init n st)
    (hr : i ≠ .readAccess 0x00#8) (hv : ∀ v, i ≠ .writeAccess 0x80#8 v) :
    h'.shadowGconf = h.shadowGconf := by
  cases hw with
  | unchanged | microstep => simp
  | initialised n st hn => exact absurd rfl (hi n st)
  | refreshed rid D sh v hD hsh =>
    obtain ⟨-, rfl⟩ | ⟨rfl, -⟩ := readable?_default_shadow rid D sh hD hsh
    · exact absurd rfl hr
    · rfl
  | stored rid D sh v w hD hsh =>
    obtain ⟨-, rfl⟩ | ⟨rfl, -⟩ | ⟨rfl, -⟩ := writable?_default_shadow rid D sh hD hsh
    · exact absurd rfl (hv w)
    · rfl
    · rfl

/-- Only INIT and the write of NODECONF write its shadow (R22). -/
theorem Written.nodeconf_kept (hw : Written h i h') (hi : ∀ n st, i ≠ .init n st)
    (hv : ∀ v, i ≠ .writeAccess 0x83#8 v) : h'.shadowNodeconf = h.shadowNodeconf := by
  cases hw with
  | unchanged | microstep => simp
  | initialised n st hn => exact absurd rfl (hi n st)
  | refreshed rid D sh v hD hsh =>
    obtain ⟨rfl, -⟩ | ⟨rfl, -⟩ := readable?_default_shadow rid D sh hD hsh <;> rfl
  | stored rid D sh v w hD hsh =>
    obtain ⟨rfl, -⟩ | ⟨-, rfl⟩ | ⟨rfl, -⟩ := writable?_default_shadow rid D sh hD hsh
    · rfl
    · exact absurd rfl (hv w)
    · rfl

/-- Only INIT, SET_MICROSTEP and the accesses of CHOPCONF write its shadow (R22). -/
theorem Written.chopconf_kept (hw : Written h i h') (hi : ∀ n st, i ≠ .init n st)
    (hm : ∀ m, i ≠ .setMicrostep m) (hr : i ≠ .readAccess 0x6C#8)
    (hv : ∀ v, i ≠ .writeAccess 0xEC#8 v) : h'.shadowChopconf = h.shadowChopconf := by
  cases hw with
  | unchanged => rfl
  | initialised n st hn => exact absurd rfl (hi n st)
  | microstep m full hle => exact absurd rfl (hm m)
  | refreshed rid D sh v hD hsh =>
    obtain ⟨rfl, -⟩ | ⟨-, rfl⟩ := readable?_default_shadow rid D sh hD hsh
    · rfl
    · exact absurd rfl hr
  | stored rid D sh v w hD hsh =>
    obtain ⟨rfl, -⟩ | ⟨rfl, -⟩ | ⟨-, rfl⟩ := writable?_default_shadow rid D sh hD hsh
    · rfl
    · rfl
    · exact absurd rfl (hv w)

/-- Every handle write keeps the clock constant that of the steps and the code (R19, R20). -/
theorem Written.inv (hw : Written h i h') (hinv : h.Inv blockParams) : h'.Inv blockParams := by
  cases hw with
  | unchanged => exact hinv
  | initialised n st hn => exact fun _ => ⟨by simp [Handle.initialised], rfl⟩
  | microstep m full hm =>
    have hcode : (m.setWidth 4).toNat = m.toNat :=
      (BitVec.toNat_setWidth ..).trans (Nat.mod_eq_of_lt (by omega))
    intro _
    simp [hcode, hm]
  | refreshed | stored => simpa [Handle.Inv] using hinv

/-- An instruction that changes the handle is a command. -/
theorem Written.isCommand_of_ne (hw : Written h i h') (hne : h' ≠ h) : IsCommand i := by
  cases hw with
  | unchanged => exact absurd rfl hne
  | initialised | microstep | refreshed | stored => exact ⟨_, rfl⟩

/-- An instruction that changes `HS` is an INIT with a legal node. -/
theorem Written.init_of_hs_ne (hw : Written h i h') (hne : h'.hs ≠ h.hs) :
    ∃ n st, n.toNat < 4 ∧ i = .init n st := by
  cases hw with
  | initialised n st hn => exact ⟨n, st, hn, rfl⟩
  | unchanged | microstep | refreshed | stored => simp at hne

end HandleWrites

/-! ### What holds however an instruction ends -/

section AllEnds

variable {i : Instr} {s t : State}

theorem Ends.inbox (h : Ends i s t) : t.inbox = s.inbox := by
  cases h with
  | raised s' e hs he => exact hs.inbox
  | answered s' h p hs hw => exact hs.inbox
  | silent s' hs hi => exact hs.inbox

theorem Ends.written (h : Ends i s t) : Written s.handle i t.handle := by
  cases h with
  | raised s' e hs he => exact hs.handle ▸ .unchanged i
  | answered s' h p hs hw => exact hw
  | silent s' hs hi => exact hs.handle ▸ .unchanged i

theorem Ends.transmitAnswers (h : Ends i s t) (hi : transmits i = false) :
    t.txAnswers = s.txAnswers ∧ t.txCount = s.txCount := by
  cases h with
  | raised s' e hs he => exact hs.transmitAnswers hi
  | answered s' h p hs hw => exact hs.transmitAnswers hi
  | silent s' hs _ => exact hs.transmitAnswers hi

theorem Ends.receiveAnswers (h : Ends i s t) (hi : receives i = false) :
    t.rxAnswers = s.rxAnswers ∧ t.rxCount = s.rxCount := by
  cases h with
  | raised s' e hs he => exact hs.receiveAnswers hi
  | answered s' h p hs hw => exact hs.receiveAnswers hi
  | silent s' hs _ => exact hs.receiveAnswers hi

/-- The new events: those performed, and then either no response, and the instruction is a datagram;
or an error of the instruction's row alone, with the handle as it was; or OK with its results. -/
theorem Ends.trace_cases (h : Ends i s t) :
    ∃ evs, (∀ e ∈ evs, EventAllowed i e) ∧
      ((t.trace = s.trace ++ evs ∧ t.handle = s.handle ∧ ¬ IsCommand i) ∨
      (∃ e ∈ mayRaise i, t.trace = s.trace ++ evs ++ [.respond [e.code]] ∧ t.handle = s.handle) ∨
      ∃ p, t.trace = s.trace ++ evs ++ [.respond (0x00#8 :: p)]) := by
  cases h with
  | raised s' e hs he =>
    obtain ⟨evs, htrace, hevs⟩ := hs.trace
    exact ⟨evs, hevs, .inr (.inl ⟨e, he, by simp [htrace], hs.handle⟩)⟩
  | answered s' h p hs hw =>
    obtain ⟨evs, htrace, hevs⟩ := hs.trace
    exact ⟨evs, hevs, .inr (.inr ⟨p, by simp [htrace]⟩)⟩
  | silent s' hs hi =>
    obtain ⟨evs, htrace, hevs⟩ := hs.trace
    exact ⟨evs, hevs, .inl ⟨htrace, hs.handle, hi⟩⟩

end AllEnds

/-! ### Responses (R99) -/

theorem code_le (e : Status) : e.code.toNat ≤ 7 := by
  cases e <;> decide

/-- The statuses of R99. -/
def statuses : List Status :=
  [.ok, .checksumError, .ioTimeoutError, .invalidState, .outOfRange, .unsupported, .illegalCommand,
    .invalidArgument]

theorem mem_statuses (e : Status) : e ∈ statuses := by
  cases e <;> decide

theorem code_injective (e e' : Status) (h : e.code = e'.code) : e = e' := by
  have hall : ∀ e ∈ statuses, ∀ e' ∈ statuses, e.code = e'.code → e = e' := by decide
  exact hall e (mem_statuses e) e' (mem_statuses e') h

/-- Only OK has the code 0. -/
theorem code_ne_zero (e : Status) (he : e ≠ .ok) : e.code ≠ 0x00#8 :=
  fun h => he (code_injective e .ok h)

theorem responseOk_code (e : Status) : responseOk [e.code] = true := by
  simp [responseOk, code_le]

theorem responseOk_ok (p : List Byte) : responseOk (0x00#8 :: p) = true := by
  simp [responseOk]

/-- The events an instruction adds are well formed, and under a command for registers of the table.
-/
theorem Ends.new_events {i : Instr} {s t : State} (h : Ends i s t) :
    ∃ evs, t.trace = s.trace ++ evs ∧ ∀ e ∈ evs,
      eventOk blockParams e = true ∧ (IsCommand i → eventListed blockParams e = true) := by
  obtain ⟨evs, hevs, hends⟩ := h.trace_cases
  have hok : ∀ e ∈ evs,
      eventOk blockParams e = true ∧ (IsCommand i → eventListed blockParams e = true) :=
    fun e he => ⟨(hevs e he).wellFormed, (hevs e he).listed⟩
  have hrespond (p : List Byte) (hp : responseOk p = true) : ∀ e ∈ evs ++ [Event.respond p],
      eventOk blockParams e = true ∧ (IsCommand i → eventListed blockParams e = true) := by
    intro e he
    obtain he | he := List.mem_append.mp he
    · exact hok e he
    · obtain rfl := List.mem_singleton.mp he
      exact ⟨hp, fun _ => rfl⟩
  obtain ⟨htrace, -, -⟩ | ⟨e, -, htrace, -⟩ | ⟨p, htrace⟩ := hends
  · exact ⟨evs, htrace, hok⟩
  · exact ⟨_, htrace.trans (List.append_assoc ..), hrespond _ (responseOk_code e)⟩
  · exact ⟨_, htrace.trans (List.append_assoc ..), hrespond _ (responseOk_ok p)⟩

end Sys2Proof.Proofs.Effects
end

section
/-! Proofs about the handle and the events of every run: the invariant of 10_state.md section 2, the
well-formed events of 42_datagram_codec.md section 4 and 60_exceptions.md, the precise exceptions,
the writers of each handle field, and who starts an action. Each is read off the ways an instruction
ends. -/

namespace Sys2Proof.Proofs.WholeMachine

open Sys2Proof Sys2Proof.Machine Sys2Proof.Proofs.Codec Sys2Proof.Proofs.RegisterAccess
  Sys2Proof.Proofs.Effects

/-! ### Exceptions and writers -/

/-- The response of an error is not one of the events performed before it. -/
theorem not_mem_allowed {i : Instr} {evs : List Event} (hevs : ∀ e ∈ evs, EventAllowed i e)
    (p : List Byte) : Event.respond p ∉ evs := by
  intro hmem
  have hresponse : isResponse (.respond p) = false := (hevs _ hmem).notResponse
  cases hresponse

/-- Settles O37: an error response alone ends an instruction that raised, which wrote nothing; an OK
response begins with another byte, and an instruction with no response writes nothing either. -/
theorem exceptionsLeaveTheHandleAlone : Obligations.ExceptionsLeaveTheHandleAlone := by
  intro i s t e hexec he hlast
  obtain ⟨evs, -, ⟨-, hhandle, -⟩ | ⟨e', -, -, hhandle⟩ | ⟨p, htrace⟩⟩ :=
    (ends_of_exec hexec).trace_cases
  · exact hhandle
  · exact hhandle
  · obtain ⟨hzero, -⟩ : 0x00#8 = e.code ∧ p = [] := by simpa [htrace] using hlast
    exact absurd hzero.symm (code_ne_zero e he)

/-- Settles O38: the last new event is the response, so the status is the one that was raised. -/
theorem statusesStayInTheMatrix : Obligations.StatusesStayInTheMatrix := by
  intro i s t evs e hexec he htrace
  obtain ⟨evs', hevs', ⟨htrace', -, -⟩ | ⟨e', hrow, htrace', -⟩ | ⟨p, htrace'⟩⟩ :=
    (ends_of_exec hexec).trace_cases
  · have hsame : evs' = evs ++ [.respond [e.code]] :=
      List.append_cancel_left (htrace'.symm.trans (htrace.trans (List.append_assoc ..)))
    exact absurd (hsame ▸ by simp) (not_mem_allowed hevs' [e.code])
  · obtain ⟨-, hlast⟩ := List.append_inj' (htrace'.symm.trans htrace) rfl
    have hcode : e'.code = e.code := by simpa using hlast
    exact code_injective e' e hcode ▸ hrow
  · obtain ⟨-, hlast⟩ := List.append_inj' (htrace'.symm.trans htrace) rfl
    obtain ⟨hzero, -⟩ : 0x00#8 = e.code ∧ p = [] := by simpa using hlast
    exact absurd hzero.symm (code_ne_zero e he)

/-- Settles O40: the fields of the environment move only with the events performed, and the handle
only by the writes of its writers. -/
theorem handleFieldsHaveTheirWriters : Obligations.HandleFieldsHaveTheirWriters := by
  intro i s t hexec
  have hends := ends_of_exec hexec
  have hw := hends.written
  exact ⟨hends.inbox, hends.transmitAnswers, hends.receiveAnswers,
    hw.identity_kept, hw.microstep_kept, hw.handle_kept,
    hw.gconf_kept, hw.nodeconf_kept, hw.chopconf_kept⟩

/-! ### A step, input by input (R6, R41) -/

section StepEquations

variable (s : State) (rest : List Input)

/-- With no input the block waits (R100). -/
theorem step_waiting (hin : s.inbox = []) : step s = .next s := by
  simp only [step, stepVia, hin]

/-- A reset input puts the handle as after reset and takes nothing else (R113). -/
theorem step_reset (hin : s.inbox = .reset :: rest) : step s = .next s.dropInput.applyReset := by
  simp only [step, stepVia, hin]

/-- Bytes on the line are not seen (R104). -/
theorem step_line (b : List Byte) (hin : s.inbox = .line b :: rest) :
    step s = .next s.dropInput := by
  simp only [step, stepVia, hin]

/-- A packet that decodes is run. -/
theorem step_decoded (p : Packet) (i : Instr) (hin : s.inbox = .packet p :: rest)
    (hd : decode p = .ok i) : step s = exec i s.dropInput := by
  have hd' : decodePacket blockParams p = .ok i := hd
  simp only [step, stepVia, hin, hd']

/-- A packet that does not decode is rejected. -/
theorem step_undecoded (p : Packet) (e : DecodeError) (hin : s.inbox = .packet p :: rest)
    (hd : decode p = .error e) : step s = s.dropInput.rejectPacket p := by
  have hd' : decodePacket blockParams p = .error e := hd
  simp only [step, stepVia, hin, hd']

theorem dropInput_eq (x : Input) (hin : s.inbox = x :: rest) :
    s.dropInput = { s with inbox := rest } := by
  rw [State.dropInput, hin, List.tail_cons]

end StepEquations

/-! ### What a step can do -/

/-- The ways a step from `s` ends in `t`, in terms of the handle and the events. -/
inductive Stepped (s t : State) : Prop
  | quiet (hhead : ∀ f, s.inbox.head? ≠ some (.packet (.command f))) (hhandle : t.handle = s.handle)
    (htrace : t.trace = s.trace)
  | reset (hhead : s.inbox.head? = some .reset) (hhandle : t.handle = Handle.reset)
    (htrace : t.trace = s.trace)
  | rejected (f : List Byte) (hhead : s.inbox.head? = some (.packet (.command f)))
    (hhandle : t.handle = s.handle) (htrace : t.trace = s.trace ++ [.respond [0x06#8]])
  | ran (i : Instr) (hhead : s.inbox.head? = some (.packet (encode i)))
    (hends : Ends i s.dropInput t)

/-- Every step takes the next input and ends in one of the ways of `Stepped`. -/
theorem step_steps (s : State) :
    ∃ t, step s = .next t ∧ t.inbox = s.inbox.tail ∧ Stepped s t := by
  obtain ⟨hin, hstep⟩ | ⟨rest, hin, hstep⟩ | ⟨b, rest, hin, hstep⟩ | ⟨f, rest, e, hin, -, hstep⟩ |
    ⟨p, rest, e, hin, -, hp, hstep⟩ | ⟨p, rest, i, hin, hd, hstep⟩ := step_cases s
  · exact ⟨s, hstep, by simp [hin], .quiet (by simp [hin]) rfl rfl⟩
  · exact ⟨_, hstep, rfl, .reset (by simp [hin]) rfl rfl⟩
  · exact ⟨_, hstep, rfl, .quiet (by simp [hin]) rfl rfl⟩
  · exact ⟨_, hstep, rfl, .rejected f (by simp [hin]) rfl rfl⟩
  · exact ⟨_, hstep, rfl, .quiet (by simpa [hin] using hp) rfl rfl⟩
  · obtain ⟨t, hexec, hends⟩ := completes i s.dropInput
    obtain rfl : encode i = p := encodeInvertsDecode blockParams p i hd
    exact ⟨t, hstep.trans hexec, hends.inbox, .ran i (by simp [hin]) hends⟩

/-- The inversion of `step`: where a step answers `t`, it ends in `t`. -/
theorem stepped_of_step {s t : State} (h : step s = .next t) :
    t.inbox = s.inbox.tail ∧ Stepped s t := by
  obtain ⟨t', hstep, hinbox, hstepped⟩ := step_steps s
  cases hstep.symm.trans h
  exact ⟨hinbox, hstepped⟩

/-- Settles O35: every way of taking an input answers a next state without that input. -/
theorem everyStepAnswersANextState : Obligations.EveryStepAnswersANextState := by
  intro s
  obtain ⟨t, hstep, hinbox, -⟩ := step_steps s
  exact ⟨t, hstep, hinbox⟩

/-- Settles O45: the steps that write the handle are reset, which leaves Ready, and the
instructions, whose writes keep the invariant. -/
theorem stepsKeepTheClockConstantInStep : Obligations.StepsKeepTheClockConstantInStep := by
  intro s t hinv hstep
  obtain ⟨-, hstepped⟩ := stepped_of_step hstep
  cases hstepped with
  | quiet hhead hhandle htrace => exact hhandle ▸ hinv
  | reset hhead hhandle htrace =>
    rw [hhandle]
    intro hready
    cases hready
  | rejected f hhead hhandle htrace => exact hhandle ▸ hinv
  | ran i hhead hends => exact hends.written.inv hinv

/-- The trace stays well formed when well-formed events are added. -/
theorem traceOk_append {s t : State} {evs : List Event} (hs : s.traceOk blockParams = true)
    (htrace : t.trace = s.trace ++ evs) (hevs : ∀ e ∈ evs, eventOk blockParams e = true) :
    t.traceOk blockParams = true := by
  rw [State.traceOk, htrace, List.all_append, Bool.and_eq_true]
  exact ⟨hs, List.all_eq_true.mpr hevs⟩

/-- Settles O46: a step adds nothing, the response 06, or the events of an instruction. -/
theorem stepsAddOnlyWellFormedEvents : Obligations.StepsAddOnlyWellFormedEvents := by
  intro s t hs hstep
  obtain ⟨-, hstepped⟩ := stepped_of_step hstep
  cases hstepped with
  | quiet hhead hhandle htrace => exact traceOk_append (evs := []) hs (by simp [htrace]) (by simp)
  | reset hhead hhandle htrace => exact traceOk_append (evs := []) hs (by simp [htrace]) (by simp)
  | rejected f hhead hhandle htrace =>
    exact traceOk_append hs htrace (List.forall_mem_singleton.mpr (responseOk_code .illegalCommand))
  | ran i hhead hends =>
    obtain ⟨evs, htrace, hevs⟩ := hends.new_events
    exact traceOk_append hs htrace fun e he => (hevs e he).1

/-- Settles O44: after reset HS is Uninitialized and nothing was seen. -/
theorem resetIsSafe : Obligations.ResetIsSafe := by
  refine ⟨?_, rfl⟩
  intro hready
  cases hready

/-- Settles O36: a frame is rejected with 06 or run as a command, which always responds. -/
theorem everyFrameGetsOneResponse : Obligations.EveryFrameGetsOneResponse := by
  intro s f rest hin
  obtain ⟨t, hstep, hinbox, hstepped⟩ := step_steps s
  have hinbox' : t.inbox = rest := by rw [hinbox, hin]; rfl
  have hhead' : s.inbox.head? = some (.packet (.command f)) := by rw [hin]; rfl
  cases hstepped with
  | quiet hhead hhandle htrace => exact absurd hhead' (hhead f)
  | reset hhead hhandle htrace => cases hhead'.symm.trans hhead
  | rejected f' hhead hhandle htrace =>
    exact ⟨t, [], 0x06#8, [], hstep, hinbox', by simp [htrace], rfl, by decide, fun _ => rfl⟩
  | ran i hhead hends =>
    have hcommand : IsCommand i := ⟨f, by simpa [hhead] using hhead'⟩
    obtain ⟨evs, hevs, hends⟩ := hends.trace_cases
    have hcollab : evs.all (fun e => !isResponse e) = true :=
      List.all_eq_true.mpr fun e he => by simp [(hevs e he).notResponse]
    obtain ⟨-, -, hdatagram⟩ | ⟨e, -, htrace, -⟩ | ⟨p, htrace⟩ := hends
    · exact absurd hcommand hdatagram
    · exact ⟨t, evs, e.code, [], hstep, hinbox', htrace, hcollab, code_le e, fun _ => rfl⟩
    · exact ⟨t, evs, 0x00#8, p, hstep, hinbox', htrace, hcollab, by decide, fun h => absurd rfl h⟩

/-- Settles O51: what a command transmits was looked up in the table; a rejected frame transmits
nothing. -/
theorem commandsReachListedRegistersOnly : Obligations.CommandsReachListedRegistersOnly := by
  intro s t f rest hin hstep
  have hhead' : s.inbox.head? = some (.packet (.command f)) := by rw [hin]; rfl
  obtain ⟨-, hstepped⟩ := stepped_of_step hstep
  cases hstepped with
  | quiet hhead hhandle htrace => exact absurd hhead' (hhead f)
  | reset hhead hhandle htrace => cases hhead'.symm.trans hhead
  | rejected f' hhead hhandle htrace => exact ⟨_, htrace, rfl⟩
  | ran i hhead hends =>
    have hcommand : IsCommand i := ⟨f, by simpa [hhead] using hhead'⟩
    obtain ⟨evs, htrace, hevs⟩ := hends.new_events
    exact ⟨evs, htrace, List.all_eq_true.mpr fun e he => (hevs e he).2 hcommand⟩

/-- Settles O50: bytes on the line are dropped; a step with another input than a packet adds no
event, and one with another than a command frame or reset leaves the handle alone. -/
theorem onlyTheHostStartsAnAction : Obligations.OnlyTheHostStartsAnAction := by
  refine ⟨?line, ?events, ?handle⟩
  case line =>
    intro s b rest hin
    rw [step_line s rest b hin, dropInput_eq s rest _ hin]
  case events =>
    intro s t hstep hne
    obtain ⟨-, hstepped⟩ := stepped_of_step hstep
    cases hstepped with
    | quiet hhead hhandle htrace => exact absurd htrace hne
    | reset hhead hhandle htrace => exact absurd htrace hne
    | rejected f hhead hhandle htrace => exact ⟨_, hhead⟩
    | ran i hhead hends => exact ⟨_, hhead⟩
  case handle =>
    intro s t hstep hne hreset
    obtain ⟨-, hstepped⟩ := stepped_of_step hstep
    cases hstepped with
    | quiet hhead hhandle htrace => exact absurd hhandle hne
    | reset hhead hhandle htrace => exact absurd hhead hreset
    | rejected f hhead hhandle htrace => exact ⟨f, hhead⟩
    | ran i hhead hends =>
      obtain ⟨f, hf⟩ := hends.written.isCommand_of_ne hne
      exact ⟨f, hf ▸ hhead⟩

/-! ### The life cycle (R88, R113) -/

/-- The commands of R88 raise InvalidState before INIT, whatever their operands. -/
theorem exec_of_needsReady (i : Instr) (s : State) (hi : needsReady i = true)
    (hstate : s.handle.hs = .uninitialized) : exec i s = .next (s.replied [0x03#8]) := by
  cases i with
  | readAccess rid => exact exec_readAccess_of_uninitialized s rid hstate
  | writeAccess rid v => exact exec_writeAccess_of_uninitialized s rid v hstate
  | setSpeed rpm => exact Motion.exec_setSpeed_of_uninitialized s rpm hstate
  | setAngle angle => exact Motion.exec_setAngle_of_uninitialized s angle hstate
  | setMicrostep m => exact DeviceHandle.exec_setMicrostep_of_uninitialized s m hstate
  | init | calcCrc | maskFor | buildWrite | buildRead | parseReply | setEnable | dgramWrite
  | dgramReadRequest | dgramReadReply => cases hi

/-- Settles O41: reset and INIT write `HS`, no other step does, and the five commands that need
Ready test it first. -/
theorem lifecycleFollowsInitAndReset : Obligations.LifecycleFollowsInitAndReset := by
  refine ⟨rfl, ?reset, ?init, ?changes, exec_of_needsReady⟩
  case reset =>
    intro s t rest hin hstep
    cases (step_reset s rest hin).symm.trans hstep
    rfl
  case init =>
    intro s n steps hn
    exact ⟨_, DeviceHandle.exec_init_of_node s n steps hn, rfl⟩
  case changes =>
    intro s t hstep hne
    obtain ⟨-, hstepped⟩ := stepped_of_step hstep
    cases hstepped with
    | quiet hhead hhandle htrace => exact absurd (hhandle ▸ rfl) hne
    | reset hhead hhandle htrace => exact .inl hhead
    | rejected f hhead hhandle htrace => exact absurd (hhandle ▸ rfl) hne
    | ran i hhead hends =>
      obtain ⟨n, st, hn, rfl⟩ := hends.written.init_of_hs_ne hne
      exact .inr ⟨n, _, _, hn, hhead⟩

/-- Settles O42: the step of a reset input is written out, and names no other field. -/
theorem resetIsSilentAndLosesNoCommand : Obligations.ResetIsSilentAndLosesNoCommand := by
  intro s rest hin
  exact ⟨_, step_reset s rest hin, rfl, by simp [hin], rfl, rfl, rfl⟩

/-! ### The machine and its parameters -/

/-- Settles O1: the decoder decides what a step runs, and it runs it without the taken input. -/
theorem stepRunsTheDecodedInstruction : Obligations.StepRunsTheDecodedInstruction := by
  intro s p rest i hin hd _
  rw [step_decoded s rest p i hin hd, dropInput_eq s rest _ hin]

/-- The meaning of an instruction for the block's parameters is the block's own. -/
theorem execWith_block (i : Instr) (s : State) : execWith blockParams i s = exec i s := by
  cases i <;> rfl

theorem stepWith_block : stepWith blockParams = step := by
  have hexec : execWith blockParams = exec := funext₂ execWith_block
  funext s
  rw [stepWith, hexec, step]

/-- The default table and the block's other parameters are legal (R7, R69). -/
theorem paramsOk_block : paramsOk blockParams = true := by
  decide

/-- Settles O33: `machineOf` tests the parameters first, and the block's own pass. -/
theorem onlyLegalParametersHaveAMachine : Obligations.OnlyLegalParametersHaveAMachine := by
  refine ⟨paramsOk_block, ?illegal, ?legal, fun s => congrFun stepWith_block s, ?block⟩
  case illegal =>
    intro P hP
    simp [machineOf, hP]
  case legal =>
    intro P hP
    exact if_pos hP
  case block =>
    refine (if_pos paramsOk_block).trans ?_
    rw [stepWith_block]
    rfl

/-- Settles O34: `Receive` cuts its answer to the length asked for, and the scripted answers of a
state can be any. -/
theorem uartAnswersAreExactAndFree : Obligations.UartAnswersAreExactAndFree := by
  refine ⟨?exact, ?bytes, ?receiveFails, ?transmit⟩
  case exact =>
    intro s n bs h
    unfold State.rxAnswer at h
    split at h <;> cases h
    exact lineBytes_length ..
  case bytes =>
    intro s bs
    exact ⟨{ s with rxAnswers := [.bytes bs] }, rfl, congrArg some (lineBytes_self s.rxCount bs)⟩
  case receiveFails =>
    intro s n
    exact ⟨{ s with rxAnswers := [.ioError] }, rfl, rfl⟩
  case transmit =>
    intro s a
    exact ⟨{ s with txAnswers := [a] }, rfl, rfl⟩

end Sys2Proof.Proofs.WholeMachine
end

section
/-! Proofs about PARSE_REPLY and the datagrams run on their own (42_datagram_codec.md R78, R79; log
entries 4 and 5), and about how commands relate to each other and to the datagrams
(43_register_access.md, 45_motion.md, 70_reset_and_hazards.md section 3). -/

namespace Sys2Proof.Proofs.Transactions

open Sys2Proof Sys2Proof.Machine Sys2Proof.Proofs.CrcUnit Sys2Proof.Proofs.RegisterMap
  Sys2Proof.Proofs.DatagramCodec Sys2Proof.Proofs.RegisterAccess Sys2Proof.Proofs.DeviceHandle
  Sys2Proof.Proofs.Motion Sys2Proof.Proofs.Effects

/-! ### Seven reply bytes (R57, R78) -/

section Reply

variable (s : State) (a r d3 d2 d1 d0 c : Byte)

/-- A reply that ends with its CRC answers its echoes and its data bytes. -/
theorem finishReply_good (hcrc : c = crc8 .refl8C [a, r, d3, d2, d1, d0]) :
    s.finishReply blockParams [a, r, d3, d2, d1, d0, c] =
      .next (s.replied [0x00#8, a, r, d3, d2, d1, d0]) := by
  have hparse : parse blockParams [a, r, d3, d2, d1, d0, c] = some (a, r, unbe32 d3 d2 d1 d0) :=
    (parse_compact7 blockParams rfl ..).trans (if_pos hcrc)
  simp only [State.finishReply, hparse, be32_unbe32, State.answer_eq]

/-- A reply that ends with another byte is a ChecksumError. -/
theorem finishReply_bad (hcrc : c ≠ crc8 .refl8C [a, r, d3, d2, d1, d0]) :
    s.finishReply blockParams [a, r, d3, d2, d1, d0, c] = .next (s.replied [0x01#8]) := by
  have hparse : parse blockParams [a, r, d3, d2, d1, d0, c] = none :=
    (parse_compact7 blockParams rfl ..).trans (if_neg hcrc)
  simp only [State.finishReply, hparse]
  rfl

end Reply

/-! ### PARSE_REPLY and the datagrams -/

theorem exec_parseReply_of_length (s : State) (p : List Byte) (hp : p.length = 7) :
    exec (.parseReply p) s = s.finishReply blockParams p :=
  if_neg (not_not.mpr hp)

theorem exec_parseReply_of_otherLength (s : State) (p : List Byte) (hp : p.length ≠ 7) :
    exec (.parseReply p) s = .next (s.replied [0x06#8]) :=
  if_pos hp

theorem exec_dgramReadReply_of_length (s : State) (p : List Byte) (hp : p.length = 7) :
    exec (.dgramReadReply p) s = s.finishReply blockParams p :=
  if_neg (not_not.mpr hp)

theorem exec_dgramReadReply_of_otherLength (s : State) (p : List Byte) (hp : p.length ≠ 7) :
    exec (.dgramReadReply p) s = .next s :=
  if_pos hp

/-- Settles O10: the length decides whether a frame is PARSE_REPLY, and the last byte alone whether
the reply is accepted. -/
theorem parseReplyChecksAndDecodes : Obligations.ParseReplyChecksAndDecodes := by
  refine ⟨refusesOtherLengths_opcode .parseReply (by decide), ?decodes, ?answers⟩
  case decodes =>
    intro p hp
    exact (decodeFrame_opcode blockParams .parseReply p).trans (if_pos hp)
  case answers =>
    intro s a r d3 d2 d1 d0 c
    rw [exec_parseReply_of_length s _ rfl]
    split
    next hcrc => exact finishReply_good s a r d3 d2 d1 d0 c hcrc
    next hcrc => exact finishReply_bad s a r d3 d2 d1 d0 c hcrc

/-- Settles O20: a read reply of seven bytes is parsed as PARSE_REPLY parses it. -/
theorem readReplyIsParsed : Obligations.ReadReplyIsParsed := by
  intro s a r d3 d2 d1 d0 c
  rw [exec_dgramReadReply_of_length s _ rfl]
  split
  next hcrc => exact finishReply_good s a r d3 d2 d1 d0 c hcrc
  next hcrc => exact finishReply_bad s a r d3 d2 d1 d0 c hcrc

section WriteDatagram

variable (s : State) (node : BitVec 2) (reg : BitVec 7) (data : Word) (crc : Byte)

/-- A write datagram with a wrong CRC is not transmitted (log entry 5). -/
theorem exec_dgramWrite_of_badCrc (hcrc : crc ≠ crc8 .refl8C (writeBody node reg data)) :
    exec (.dgramWrite node reg data crc) s = .next (s.replied [0x01#8]) :=
  if_pos hcrc

variable (hcrc : crc = crc8 .refl8C (writeBody node reg data))

include hcrc

/-- A failed `Transmit` of a write datagram is an IoTimeoutError. -/
theorem exec_dgramWrite_of_ioError (htx : s.txAnswer = .ioError) :
    exec (.dgramWrite node reg data crc) s =
      .next ((s.transmit (writeBody node reg data ++ [crc])).replied [0x02#8]) := by
  refine (if_neg (not_not.mpr hcrc)).trans ?_
  simp only [htx]
  rfl

/-- A transmitted write datagram ends silently. -/
theorem exec_dgramWrite_of_ok (htx : s.txAnswer = .ok) :
    exec (.dgramWrite node reg data crc) s =
      .next (s.transmit (writeBody node reg data ++ [crc])) := by
  refine (if_neg (not_not.mpr hcrc)).trans ?_
  simp only [htx]

end WriteDatagram

/-- Settles O18: the last byte, and then the answer of `Transmit`, decide how the datagram ends. -/
theorem writeDatagramIsTransmitted : Obligations.WriteDatagramIsTransmitted := by
  intro s node reg data crc body i
  split
  next hcrc =>
    exact ⟨exec_dgramWrite_of_ok s node reg data crc hcrc,
      exec_dgramWrite_of_ioError s node reg data crc hcrc⟩
  next hcrc => exact exec_dgramWrite_of_badCrc s node reg data crc hcrc

section ReadRequest

variable (s : State) (node : BitVec 2) (reg : BitVec 7) (crc : Byte)

/-- A read request with a wrong CRC is not transmitted (log entry 5). -/
theorem exec_dgramReadRequest_of_badCrc (hcrc : crc ≠ crc8 .refl8C (readBody node reg)) :
    exec (.dgramReadRequest node reg crc) s = .next (s.replied [0x01#8]) :=
  if_pos hcrc

variable (hcrc : crc = crc8 .refl8C (readBody node reg))

include hcrc

/-- A failed `Transmit` of a read request is an IoTimeoutError. -/
theorem exec_dgramReadRequest_of_transmit_ioError (htx : s.txAnswer = .ioError) :
    exec (.dgramReadRequest node reg crc) s =
      .next ((s.transmit (readBody node reg ++ [crc])).replied [0x02#8]) := by
  refine (if_neg (not_not.mpr hcrc)).trans ?_
  simp only [htx]
  rfl

/-- A failed `Receive` after a read request is an IoTimeoutError. -/
theorem exec_dgramReadRequest_of_receive_ioError (htx : s.txAnswer = .ok)
    (hrx : s.rxAnswer 7 = none) :
    let got := (s.transmit (readBody node reg ++ [crc])).receive 7 Config.rxTimeout
    exec (.dgramReadRequest node reg crc) s = .next (got.replied [0x02#8]) := by
  have hrx' : s.rxAnswer blockParams.replyLayout.len = none := hrx
  refine (if_neg (not_not.mpr hcrc)).trans ?_
  simp only [htx, State.transmit_rxAnswer, hrx']
  rfl

/-- A reply to a read request is parsed. -/
theorem exec_dgramReadRequest_of_reply (y : List Byte) (htx : s.txAnswer = .ok)
    (hrx : s.rxAnswer 7 = some y) :
    exec (.dgramReadRequest node reg crc) s =
      ((s.transmit (readBody node reg ++ [crc])).receive 7 Config.rxTimeout).finishReply
        blockParams y := by
  have hrx' : s.rxAnswer blockParams.replyLayout.len = some y := hrx
  refine (if_neg (not_not.mpr hcrc)).trans ?_
  simp only [htx, State.transmit_rxAnswer, hrx']
  rfl

end ReadRequest

/-- Settles O19: the last byte, the answers of `Transmit` and `Receive`, and the reply's CRC decide
in this order how the request ends. -/
theorem readRequestBringsAReply : Obligations.ReadRequestBringsAReply := by
  intro s node reg crc body i sent got
  have hbody : readBody node reg = body := readBody_eq node reg
  split
  next hcrc =>
    have hcrc' : crc = crc8 .refl8C (readBody node reg) := hbody ▸ hcrc
    refine ⟨fun htx => ?_, fun htx hrx => ?_, fun a r d3 d2 d1 d0 c htx hrx => ?_⟩
    · rw [exec_dgramReadRequest_of_transmit_ioError s node reg crc hcrc' htx, hbody]
    · rw [exec_dgramReadRequest_of_receive_ioError s node reg crc hcrc' htx hrx, hbody]
    · rw [exec_dgramReadRequest_of_reply s node reg crc hcrc' _ htx hrx, hbody]
      split
      next hgood => exact finishReply_good got a r d3 d2 d1 d0 c hgood
      next hbad => exact finishReply_bad got a r d3 d2 d1 d0 c hbad
  next hcrc => exact exec_dgramReadRequest_of_badCrc s node reg crc (hbody ▸ hcrc)

/-! ### The stateless commands (R16) -/

/-- Settles O39: each of the six ends by its operands and the parameters alone. -/
theorem statelessCommandsReadNoState : Obligations.StatelessCommandsReadNoState := by
  intro i hi
  cases i with
  | calcCrc d =>
    by_cases hd : d = []
    · exact ⟨_, fun s => hd ▸ exec_calcCrc_nil s⟩
    · exact ⟨_, fun s => exec_calcCrc_of_ne_nil s d hd⟩
  | maskFor rid =>
    cases hD : readable? defaultRegTable rid with
    | none => exact ⟨_, fun s => exec_maskFor_of_not_readable s rid hD⟩
    | some D => exact ⟨_, fun s => exec_maskFor_of_readable s rid D hD⟩
  | buildWrite n rid d =>
    by_cases h : 4 ≤ n.toNat ∨ rid ∉ [0x80#8, 0x83#8, 0xA2#8, 0xEC#8]
    · exact ⟨_, fun s => exec_buildWrite_of_invalid s n rid d h⟩
    · obtain ⟨hn, hrid⟩ := not_or.mp h
      obtain ⟨D, hD⟩ := writable?_default_some rid (not_not.mp hrid)
      have hnode := nodeOf?_of_lt n (Nat.not_le.mp hn)
      exact ⟨_, fun s => exec_buildWrite_of_writable s n rid d _ D hnode hD⟩
  | buildRead n rid =>
    by_cases h : 4 ≤ n.toNat ∨ rid ∉ [0x00#8, 0x41#8, 0x6C#8]
    · exact ⟨_, fun s => exec_buildRead_of_invalid s n rid h⟩
    · obtain ⟨hn, hrid⟩ := not_or.mp h
      obtain ⟨D, hD⟩ := readable?_default_some rid (not_not.mp hrid)
      have hnode := nodeOf?_of_lt n (Nat.not_le.mp hn)
      exact ⟨_, fun s => exec_buildRead_of_readable s n rid _ D hnode hD⟩
  | parseReply p =>
    by_cases hp : p.length = 7
    · cases hparse : parse blockParams p with
      | none =>
        exact ⟨[0x01#8],
          fun s => by rw [exec_parseReply_of_length s p hp, State.finishReply, hparse]; rfl⟩
      | some v =>
        obtain ⟨a, r, d⟩ := v
        exact ⟨0x00#8 :: a :: r :: be32 d,
          fun s => by rw [exec_parseReply_of_length s p hp, State.finishReply, hparse]; rfl⟩
    · exact ⟨_, fun s => exec_parseReply_of_otherLength s p hp⟩
  | setEnable e => exact ⟨_, fun s => exec_setEnable s e⟩
  | init | readAccess | writeAccess | setSpeed | setAngle | setMicrostep | dgramWrite
  | dgramReadRequest | dgramReadReply => cases hi

/-! ### SET_SPEED and WRITE_ACCESS of VACTUAL -/

/-- VACTUAL has no shadow: its value is placed alone (R71). -/
theorem mergedValue_wVactual (s : State) (v : Word) : s.mergedValue wVactual v = place v wVactual :=
  rfl

/-- VACTUAL has no shadow to update (R85). -/
theorem setShadowOf_wVactual (s : State) (v : Word) : s.setShadowOf wVactual v = s := rfl

/-- Settles O32: both commands transmit the same datagram and end by the same answer. -/
theorem setSpeedIsAVactualWrite : Obligations.SetSpeedIsAVactualWrite := by
  intro s rpm v hstate hv
  have hwrite := exec_writeAccess_outcomes s 0xA2#8 (BitVec.ofInt 32 v) wVactual hstate
    writable?_default_wVactual
  simp only [mergedValue_wVactual, setShadowOf_wVactual] at hwrite
  obtain ⟨hfail, hspeed⟩ | ⟨hok, hspeed⟩ := exec_setSpeed_outcomes s rpm v hstate hv <;>
    obtain ⟨hfail', hwrite⟩ | ⟨hok', hwrite⟩ := hwrite
  · exact hspeed.trans hwrite.symm
  · cases hfail.symm.trans hok'
  · cases hok.symm.trans hfail'
  · exact hspeed.trans hwrite.symm

/-- A speed of 0 has velocity 0 (R93). -/
theorem velocity_zero (P : Params) (cc : Nat) : velocity P 0 cc = some 0 := by
  have hpos : (1 : Int) ≤ 2 ^ (P.vactualWidth - 1) := one_le_pow₀ (by norm_num)
  have hround : roundHalfAway (0 * cc * signValue P.directionSign) (2 ^ 32) = 0 := by
    simp [roundHalfAway]
  simp only [velocity, hround]
  exact if_neg (by omega)

set_option maxRecDepth 4000 in
/-- The CRC of VACTUAL 0 for node 0, as 45_motion.md gives it. -/
theorem crc8_vactual_zero : crc8 .refl8C
    [0x05#8, 0x00#8, 0x00#8, 0xA2#8, 0x00#8, 0x00#8, 0x00#8, 0x00#8] = 0xE6#8 := by
  decide

/-- Settles O31: velocity 0 is placed as 0, whatever the clock constant. -/
theorem zeroRpmWritesZero : Obligations.ZeroRpmWritesZero := by
  refine ⟨velocity_zero, ?_⟩
  intro s hstate htx node w
  have hw : buildWrite blockParams s.handle.nodeAddr wVactual (place (BitVec.ofInt 32 0) wVactual) =
      w := buildWrite_of_writable _ s.handle.nodeAddr 0xA2#8 wVactual _ writable?_default_wVactual
  refine ⟨?speed, ?crc⟩
  case speed =>
    have houtcomes := exec_setSpeed_outcomes s 0 0 hstate (velocity_zero blockParams _)
    rw [hw] at houtcomes
    obtain ⟨hfail, -⟩ | ⟨-, hspeed⟩ := houtcomes
    · cases hfail.symm.trans htx
    · exact hspeed
  case crc =>
    intro hnode
    have hbyte : node = 0x00#8 := congrArg (BitVec.setWidth 8) hnode
    simp only [w, hbyte]
    exact congrArg some crc8_vactual_zero

/-! ### SET_MICROSTEP right after INIT -/

/-- A code in MRES alone is the first data byte (R10, R91). -/
theorem be32_microstep (m : Byte) :
    be32 (m.setWidth 32 <<< 24) = [m, 0x00#8, 0x00#8, 0x00#8] := by
  revert m; decide

/-- A code in MRES leaves every other bit 0 (R91). -/
theorem microstep_outside (m : Byte) (hm : m.toNat ≤ 8) :
    (m.setWidth 32 <<< 24 : Word) &&& 0xF0FFFFFF#32 = 0 := by
  revert m; decide

/-- SET_MICROSTEP with a CHOPCONF shadow of 0 and a good `Transmit` sends the code alone (R91). -/
theorem exec_setMicrostep_of_clear_shadow (s : State) (n m : Byte) (hn : n.toNat < 4)
    (hm : m.toNat ≤ 8) (hstate : s.handle.hs = .ready) (hnode : s.handle.nodeAddr = n.setWidth 2)
    (hclear : s.handle.shadowChopconf = 0#32) (htx : s.txAnswer = .ok) :
    let w := sealed blockParams [0x05#8, 0x00#8, n, 0xEC#8, m, 0x00#8, 0x00#8, 0x00#8]
    exec (.setMicrostep m) s = .next (((s.transmit w).setHandle
      (s.handle.withMicrostep blockParams (m.setWidth 32 <<< 24) m)).replied (0x00#8 :: w)) := by
  intro w
  have hfull : merge s.handle.shadowChopconf (m.setWidth 32) wChopconf = m.setWidth 32 <<< 24 := by
    rw [hclear, merge_wChopconf 0#32 m (by omega), BitVec.zero_and, BitVec.zero_or]
  have hw : buildWrite blockParams s.handle.nodeAddr wChopconf (m.setWidth 32 <<< 24) = w := by
    rw [buildWrite_of_writable _ _ 0xEC#8 wChopconf _ writable?_default_wChopconf, hnode,
      node_setWidth n hn, be32_microstep]
    rfl
  have houtcomes := exec_setMicrostep_outcomes s m hstate hm
  simp only [hfull, hw] at houtcomes
  obtain ⟨hfail, -⟩ | ⟨-, hexec⟩ := houtcomes
  · cases htx.symm.trans hfail
  · exact hexec

/-- Settles O43: INIT cleared the CHOPCONF shadow, so the merge keeps zeros outside MRES. -/
theorem firstMicrostepWriteClearsTheRest : Obligations.FirstMicrostepWriteClearsTheRest := by
  intro s t n m steps hn hm hinit htx
  cases (exec_init_of_node s n steps hn).symm.trans hinit
  exact ⟨_, exec_setMicrostep_of_clear_shadow _ n m hn hm rfl rfl rfl htx, rfl,
    microstep_outside m hm, _, _, List.append_assoc ..⟩

/-! ### The accesses and their datagrams (R82, R84; log entry 4) -/

/-- The environment's collaborators see the same in `t` as in `u`: the same events but responses,
and the same answers used up. -/
def SameExchange (t u : State) : Prop :=
  t.trace.filter (fun e => !isResponse e) = u.trace.filter (fun e => !isResponse e) ∧
    t.txAnswers = u.txAnswers ∧ t.rxAnswers = u.rxAnswers

theorem SameExchange.refl (t : State) : SameExchange t t := ⟨rfl, rfl, rfl⟩

/-- A response is seen by no collaborator. -/
theorem filter_replied (t : State) (p : List Byte) :
    (t.replied p).trace.filter (fun e => !isResponse e) =
      t.trace.filter (fun e => !isResponse e) := by
  rw [State.replied_trace, List.filter_append]
  exact List.append_nil _

theorem SameExchange.replied_left {t u : State} (h : SameExchange t u) (p : List Byte) :
    SameExchange (t.replied p) u := by
  obtain ⟨htrace, hanswers⟩ := h
  exact ⟨(filter_replied t p).trans htrace, hanswers⟩

theorem SameExchange.replied_right {t u : State} (h : SameExchange t u) (p : List Byte) :
    SameExchange t (u.replied p) := by
  obtain ⟨htrace, hanswers⟩ := h
  exact ⟨htrace.trans (filter_replied u p).symm, hanswers⟩

/-- A shadow is seen by no collaborator. -/
theorem SameExchange.setShadowOf (t : State) (D : Descriptor) (v : Word) :
    SameExchange (t.setShadowOf D v) t :=
  ⟨by simp, by simp, by simp⟩

/-- READ_ACCESS and the read request of its descriptor perform the same events. -/
theorem readAccess_sameExchange (s t u : State) (rid : Byte) (D : Descriptor)
    (hstate : s.handle.hs = .ready) (hD : readable? defaultRegTable rid = some D)
    (ht : exec (.readAccess rid) s = .next t)
    (hu : exec (.dgramReadRequest s.handle.nodeAddr (descAddr D)
      (crc8 .refl8C (readBody s.handle.nodeAddr (descAddr D)))) s = .next u) :
    SameExchange t u := by
  obtain ⟨htx, hexec⟩ | ⟨htx, hrx, hexec⟩ | ⟨y, htx, hrx, hparsed⟩ :=
    exec_readAccess_outcomes s rid D hstate hD
  · cases hexec.symm.trans ht
    cases (exec_dgramReadRequest_of_transmit_ioError s _ _ _ rfl htx).symm.trans hu
    exact ((SameExchange.refl _).replied_left _).replied_right _
  · cases hexec.symm.trans ht
    cases (exec_dgramReadRequest_of_receive_ioError s _ _ _ rfl htx hrx).symm.trans hu
    exact ((SameExchange.refl _).replied_left _).replied_right _
  · have hu' := (exec_dgramReadRequest_of_reply s _ _ _ rfl y htx hrx).symm.trans hu
    obtain ⟨hparse, hexec⟩ | ⟨a, r, d, hparse, hexec⟩ := hparsed <;> cases hexec.symm.trans ht <;>
      simp only [State.finishReply, hparse] at hu' <;> cases hu'
    · exact ((SameExchange.refl _).replied_left _).replied_right _
    · exact ((SameExchange.setShadowOf _ D d).replied_left _).replied_right _

/-- WRITE_ACCESS and the write datagram of its merged value perform the same events. -/
theorem writeAccess_sameExchange (s t u : State) (rid : Byte) (v : Word) (D : Descriptor)
    (hstate : s.handle.hs = .ready) (hD : writable? defaultRegTable rid = some D)
    (ht : exec (.writeAccess rid v) s = .next t)
    (hu : exec (.dgramWrite s.handle.nodeAddr (descAddr D) (s.mergedValue D v)
      (crc8 .refl8C (writeBody s.handle.nodeAddr (descAddr D) (s.mergedValue D v)))) s = .next u) :
    SameExchange t u := by
  obtain ⟨htx, hexec⟩ | ⟨htx, hexec⟩ := exec_writeAccess_outcomes s rid v D hstate hD <;>
    cases hexec.symm.trans ht
  · cases (exec_dgramWrite_of_ioError s _ _ _ _ rfl htx).symm.trans hu
    exact ((SameExchange.refl _).replied_left _).replied_right _
  · cases (exec_dgramWrite_of_ok s _ _ _ _ rfl htx).symm.trans hu
    exact (SameExchange.setShadowOf _ D _).replied_left _

/-- Settles O21: the request and the datagram are the access's own, and only the response and the
shadow differ. -/
theorem accessesPerformTheirDatagrams : Obligations.AccessesPerformTheirDatagrams :=
  ⟨readAccess_sameExchange, writeAccess_sameExchange⟩

end Sys2Proof.Proofs.Transactions
end

section
/-! Proofs about the handle fields that are unspecified after reset (70_reset_and_hazards.md R114):
no instruction observes them in Uninitialized, and so no run does. -/

namespace Sys2Proof.Proofs.Noninterference

open Sys2Proof Sys2Proof.Machine Sys2Proof.Proofs.Effects Sys2Proof.Proofs.WholeMachine
  Sys2Proof.Proofs.Transactions Sys2Proof.Proofs.DeviceHandle

/-! ### States that agree -/

theorem agree_refl (s : State) : s.Agree s := ⟨rfl, fun _ => rfl, rfl⟩

/-- Another Uninitialized handle in an Uninitialized state makes no visible difference. -/
theorem agree_setHandle (s : State) (h : Handle) (hs : s.handle.hs = .uninitialized)
    (hh : h.hs = .uninitialized) : s.Agree (s.setHandle h) :=
  ⟨hs.trans hh.symm, fun hready => (nomatch hs.symm.trans hready), rfl⟩

/-- States that agree are equal, or Uninitialized and equal up to the handle. -/
theorem agree_cases {s s' : State} (h : s.Agree s') :
    s' = s ∨ (s.handle.hs = .uninitialized ∧ ∃ h, h.hs = .uninitialized ∧ s' = s.setHandle h) := by
  obtain ⟨hhs, hready, hrest⟩ := h
  cases hstate : s.handle.hs with
  | ready =>
    rw [← hready hstate] at hrest
    exact .inl hrest
  | uninitialized => exact .inr ⟨rfl, s'.handle, hhs.symm.trans hstate, hrest⟩

/-! ### Instructions that do not read the handle -/

/-- The outcome does not depend on the handle: with another one it is the same but for that one. -/
def HandleBlind (f : State → Out) (s : State) : Prop :=
  ∀ h, ∃ t, f s = .next t ∧ f (s.setHandle h) = .next (t.setHandle h)

theorem finishReply_handleBlind (y : List Byte) (s : State) :
    HandleBlind (State.finishReply blockParams y) s := by
  intro h
  simp only [State.finishReply]
  cases parse blockParams y with
  | none => exact ⟨_, rfl, rfl⟩
  | some v => exact ⟨_, rfl, rfl⟩

theorem dgramWrite_handleBlind (n : BitVec 2) (r : BitVec 7) (d : Word) (c : Byte) (s : State) :
    HandleBlind (exec (.dgramWrite n r d c)) s := by
  intro h
  by_cases hcrc : c = crc8 .refl8C (writeBody n r d)
  · cases htx : s.txAnswer with
    | ok =>
      exact ⟨_, exec_dgramWrite_of_ok s n r d c hcrc htx,
        exec_dgramWrite_of_ok (s.setHandle h) n r d c hcrc htx⟩
    | ioError =>
      exact ⟨_, exec_dgramWrite_of_ioError s n r d c hcrc htx,
        exec_dgramWrite_of_ioError (s.setHandle h) n r d c hcrc htx⟩
  · exact ⟨_, exec_dgramWrite_of_badCrc s n r d c hcrc,
      exec_dgramWrite_of_badCrc (s.setHandle h) n r d c hcrc⟩

theorem dgramReadRequest_handleBlind (n : BitVec 2) (r : BitVec 7) (c : Byte) (s : State) :
    HandleBlind (exec (.dgramReadRequest n r c)) s := by
  intro h
  by_cases hcrc : c = crc8 .refl8C (readBody n r)
  · cases htx : s.txAnswer with
    | ok =>
      cases hrx : s.rxAnswer 7 with
      | none =>
        exact ⟨_, exec_dgramReadRequest_of_receive_ioError s n r c hcrc htx hrx,
          exec_dgramReadRequest_of_receive_ioError (s.setHandle h) n r c hcrc htx hrx⟩
      | some y =>
        obtain ⟨t, ht, ht'⟩ := finishReply_handleBlind y
          ((s.transmit (readBody n r ++ [c])).receive 7 Config.rxTimeout) h
        exact ⟨t, (exec_dgramReadRequest_of_reply s n r c hcrc y htx hrx).trans ht,
          (exec_dgramReadRequest_of_reply (s.setHandle h) n r c hcrc y htx hrx).trans ht'⟩
    | ioError =>
      exact ⟨_, exec_dgramReadRequest_of_transmit_ioError s n r c hcrc htx,
        exec_dgramReadRequest_of_transmit_ioError (s.setHandle h) n r c hcrc htx⟩
  · exact ⟨_, exec_dgramReadRequest_of_badCrc s n r c hcrc,
      exec_dgramReadRequest_of_badCrc (s.setHandle h) n r c hcrc⟩

theorem dgramReadReply_handleBlind (p : List Byte) (s : State) :
    HandleBlind (exec (.dgramReadReply p)) s := by
  intro h
  by_cases hp : p.length = 7
  · obtain ⟨t, ht, ht'⟩ := finishReply_handleBlind p s h
    exact ⟨t, (exec_dgramReadReply_of_length s p hp).trans ht,
      (exec_dgramReadReply_of_length (s.setHandle h) p hp).trans ht'⟩
  · exact ⟨s, exec_dgramReadReply_of_otherLength s p hp,
      exec_dgramReadReply_of_otherLength (s.setHandle h) p hp⟩

theorem stateless_handleBlind (i : Instr) (hi : isStateless i = true) (s : State) :
    HandleBlind (exec i) s := by
  intro h
  obtain ⟨p, hp⟩ := statelessCommandsReadNoState i hi
  exact ⟨_, hp s, hp (s.setHandle h)⟩

/-- All instructions but INIT and those that need Ready leave the handle unread. -/
theorem exec_handleBlind (i : Instr) (hi : needsReady i = false) (hinit : ∀ n st, i ≠ .init n st)
    (s : State) : HandleBlind (exec i) s := by
  cases i with
  | init n st => exact absurd rfl (hinit n st)
  | calcCrc | maskFor | buildWrite | buildRead | parseReply | setEnable =>
    exact stateless_handleBlind _ rfl s
  | dgramWrite n r d c => exact dgramWrite_handleBlind n r d c s
  | dgramReadRequest n r c => exact dgramReadRequest_handleBlind n r c s
  | dgramReadReply p => exact dgramReadReply_handleBlind p s
  | readAccess | writeAccess | setSpeed | setAngle | setMicrostep => cases hi

/-! ### One step, and a run -/

/-- Both outcomes are next states, and these agree. -/
def OutcomesAgree (o o' : Out) : Prop := ∃ t t', o = .next t ∧ o' = .next t' ∧ t.Agree t'

section Uninitialized

variable {s : State} {h : Handle} (hs : s.handle.hs = .uninitialized) (hh : h.hs = .uninitialized)

include hs hh

/-- INIT replaces the handle, or answers an error before it reads it. -/
theorem init_agrees (n : Byte) (st : BitVec 16) :
    OutcomesAgree (exec (.init n st) s) (exec (.init n st) (s.setHandle h)) := by
  by_cases hn : n.toNat < 4
  · exact ⟨_, _, exec_init_of_node s n st hn, exec_init_of_node (s.setHandle h) n st hn,
      agree_refl _⟩
  · have hn' := Nat.not_lt.mp hn
    exact ⟨_, _, exec_init_of_invalid s n st hn', exec_init_of_invalid (s.setHandle h) n st hn',
      agree_setHandle (s.replied [0x07#8]) h hs hh⟩

/-- Every instruction answers agreeing states from an Uninitialized state and from it with another
Uninitialized handle. -/
theorem exec_setHandle_agrees (i : Instr) : OutcomesAgree (exec i s) (exec i (s.setHandle h)) := by
  by_cases hinit : ∃ n st, i = .init n st
  · obtain ⟨n, st, rfl⟩ := hinit
    exact init_agrees hs hh n st
  have hinit' : ∀ n st, i ≠ .init n st := fun n st hi => hinit ⟨n, st, hi⟩
  cases hi : needsReady i with
  | true =>
    exact ⟨_, _, exec_of_needsReady i s hi hs, exec_of_needsReady i (s.setHandle h) hi hh,
      agree_setHandle (s.replied [0x03#8]) h hs hh⟩
  | false =>
    obtain ⟨t, ht, ht'⟩ := exec_handleBlind i hi hinit' s h
    obtain ⟨hkept, -, -⟩ := (ends_of_exec ht).written.identity_kept hinit'
    exact ⟨t, _, ht, ht', agree_setHandle t h (hkept.trans hs) hh⟩

/-- A rejected packet leaves the handle unread. -/
theorem rejectPacket_agrees (p : Packet) :
    OutcomesAgree (s.rejectPacket p) ((s.setHandle h).rejectPacket p) := by
  cases p with
  | command f => exact ⟨_, _, rfl, rfl, agree_setHandle (s.replied [0x06#8]) h hs hh⟩
  | toSend b => exact ⟨s, _, rfl, rfl, agree_setHandle s h hs hh⟩
  | toParse b => exact ⟨s, _, rfl, rfl, agree_setHandle s h hs hh⟩

/-- One step answers agreeing states. -/
theorem step_setHandle_agrees : OutcomesAgree (step s) (step (s.setHandle h)) := by
  have hdropped : s.dropInput.handle.hs = .uninitialized := hs
  cases hin : s.inbox with
  | nil =>
    exact ⟨_, _, step_waiting s hin, step_waiting (s.setHandle h) hin, agree_setHandle s h hs hh⟩
  | cons x rest =>
    cases x with
    | reset =>
      exact ⟨_, _, step_reset s rest hin, step_reset (s.setHandle h) rest hin, agree_refl _⟩
    | line b =>
      exact ⟨_, _, step_line s rest b hin, step_line (s.setHandle h) rest b hin,
        agree_setHandle s.dropInput h hs hh⟩
    | packet p =>
      cases hd : decode p with
      | error e =>
        rw [step_undecoded s rest p e hin hd, step_undecoded (s.setHandle h) rest p e hin hd]
        exact rejectPacket_agrees hdropped hh p
      | ok i =>
        rw [step_decoded s rest p i hin hd, step_decoded (s.setHandle h) rest p i hin hd]
        exact exec_setHandle_agrees hdropped hh i

end Uninitialized

/-- One step from agreeing states answers agreeing states. -/
theorem step_agrees (s s' : State) (h : s.Agree s') : OutcomesAgree (step s) (step s') := by
  obtain rfl | ⟨hs, h, hh, rfl⟩ := agree_cases h
  · obtain ⟨t, ht, -⟩ := everyStepAnswersANextState s'
    exact ⟨t, t, ht, ht, agree_refl t⟩
  · exact step_setHandle_agrees hs hh

/-- States that agree have shown the environment the same. -/
theorem agree_trace {s s' : State} (h : s.Agree s') : s.trace = s'.trace := by
  obtain ⟨-, -, hrest⟩ := h
  rw [hrest]

/-- Settles O47, by induction on the number of steps: each step keeps the states agreeing. -/
theorem unspecifiedFieldsAreNeverObserved : Obligations.UnspecifiedFieldsAreNeverObserved := by
  intro k
  induction k with
  | zero =>
    intro s s' h
    exact ⟨s, s', rfl, rfl, agree_trace h, h⟩
  | succ k ih =>
    intro s s' h
    obtain ⟨t, t', ht, ht', hagree⟩ := step_agrees s s' h
    rw [core_run_next k s t ht, core_run_next k s' t' ht']
    exact ih t t' hagree

end Sys2Proof.Proofs.Noninterference
end

section
/-! Proofs of the properties of the CRC (40_crc.md section 3). -/

namespace Sys2Proof.Proofs.Checksum

open Sys2Proof Sys2Proof.Machine

/-! ### The bit step as shift and polynomial -/

/-- The shift of a variant. -/
def crcShift (v : CrcVariant) (c : Byte) : Byte :=
  match v with
  | .refl8C => c >>> 1
  | .reflE0 => c >>> 1
  | .tmcL07 => c <<< 1

/-- The polynomial of a variant. -/
def crcPoly (v : CrcVariant) : Byte :=
  match v with
  | .refl8C => 0x8C#8
  | .reflE0 => 0xE0#8
  | .tmcL07 => 0x07#8

/-- The bit of the register that the data bit meets. -/
def crcOutBit (v : CrcVariant) (c : Byte) : Bool :=
  match v with
  | .refl8C => c.getLsbD 0
  | .reflE0 => c.getLsbD 0
  | .tmcL07 => c.getLsbD 7

/-- What a bit adds to the shifted register. -/
def crcFeedback (v : CrcVariant) (d : Bool) : Byte := if d then crcPoly v else 0x00#8

theorem ite_xor (b : Bool) (x p : Byte) :
    (if b = true then x ^^^ p else x) = x ^^^ (if b then p else 0x00#8) := by
  cases b <;> simp

/-- The three bit steps in one form (R63). -/
theorem crcBit_eq (v : CrcVariant) (c : Byte) (d : Bool) :
    crcBit v c d = crcShift v c ^^^ crcFeedback v (crcOutBit v c ^^ d) := by
  cases v <;> exact ite_xor _ _ _

theorem crcShift_xor (v : CrcVariant) (a b : Byte) :
    crcShift v (a ^^^ b) = crcShift v a ^^^ crcShift v b := by
  cases v with
  | refl8C | reflE0 => exact BitVec.ushiftRight_xor_distrib a b 1
  | tmcL07 => exact BitVec.shiftLeft_xor_distrib a b 1

theorem crcOutBit_xor (v : CrcVariant) (a b : Byte) :
    crcOutBit v (a ^^^ b) = (crcOutBit v a ^^ crcOutBit v b) := by
  cases v <;> exact BitVec.getLsbD_xor

theorem crcFeedback_xor (v : CrcVariant) (x y : Bool) :
    crcFeedback v (x ^^ y) = crcFeedback v x ^^^ crcFeedback v y := by
  cases x <;> cases y <;> simp [crcFeedback]

/-! ### Linearity -/

theorem crcBit_xor (v : CrcVariant) (a b : Byte) (x y : Bool) :
    crcBit v (a ^^^ b) (x ^^ y) = crcBit v a x ^^^ crcBit v b y := by
  have hbits : ((crcOutBit v a ^^ crcOutBit v b) ^^ (x ^^ y)) =
      ((crcOutBit v a ^^ x) ^^ (crcOutBit v b ^^ y)) := by
    rw [Bool.xor_assoc, Bool.xor_assoc, Bool.xor_left_comm (crcOutBit v b)]
  simp only [crcBit_eq, crcShift_xor, crcOutBit_xor, hbits, crcFeedback_xor]
  ac_rfl

/-- The bit steps of any data bits are linear together. -/
theorem crcBits_xor (v : CrcVariant) (l : List Nat) (a b x y : Byte) :
    l.foldl (fun c i => crcBit v c ((x ^^^ y).getLsbD i)) (a ^^^ b) =
      l.foldl (fun c i => crcBit v c (x.getLsbD i)) a ^^^
        l.foldl (fun c i => crcBit v c (y.getLsbD i)) b := by
  induction l generalizing a b with
  | nil => rfl
  | cons i l ih =>
    simp only [List.foldl_cons, BitVec.getLsbD_xor, crcBit_xor]
    simpa only [BitVec.getLsbD_xor] using ih (crcBit v a (x.getLsbD i)) (crcBit v b (y.getLsbD i))

theorem crcByte_xor (v : CrcVariant) (a b x y : Byte) :
    crcByte v (a ^^^ b) (x ^^^ y) = crcByte v a x ^^^ crcByte v b y :=
  crcBits_xor v (List.range 8) a b x y

theorem crcFrom_xor (v : CrcVariant) (s t : List Byte) (a b : Byte) (h : s.length = t.length) :
    crcFrom v (a ^^^ b) (xorBytes s t) = crcFrom v a s ^^^ crcFrom v b t := by
  induction s generalizing t a b with
  | nil =>
    obtain rfl := List.length_eq_zero_iff.mp h.symm
    rfl
  | cons x s ih =>
    cases t with
    | nil => cases h
    | cons y t =>
      have hstep := ih t (crcByte v a x) (crcByte v b y) (Nat.succ.inj h)
      rw [← crcByte_xor] at hstep
      exact hstep

/-- The CRC is linear over XOR. -/
theorem crc8_xor (v : CrcVariant) (s t : List Byte) (h : s.length = t.length) :
    crc8 v (xorBytes s t) = crc8 v s ^^^ crc8 v t :=
  crcFrom_xor v s t 0x00#8 0x00#8 h

/-! ### A sequence and its CRC -/

theorem crcFrom_append (v : CrcVariant) (c : Byte) (s t : List Byte) :
    crcFrom v c (s ++ t) = crcFrom v (crcFrom v c s) t :=
  List.foldl_append

/-- Under right shift a data bit equal to the register's last bit only shifts. -/
theorem crcBit_lastBit (v : CrcVariant) (hv : v = .refl8C ∨ v = .reflE0) (c : Byte) :
    crcBit v c (c.getLsbD 0) = c >>> 1 := by
  obtain rfl | rfl := hv <;> exact if_neg (by simp)

/-- Under right shift the register's own bits, as data, come in the order it shifts them out. -/
theorem crcBits_self (v : CrcVariant) (hv : v = .refl8C ∨ v = .reflE0) (c : Byte) (n : Nat) :
    (List.range n).foldl (fun a i => crcBit v a (c.getLsbD i)) c = c >>> n := by
  induction n with
  | zero => simp
  | succ n ih =>
    have hbit : c.getLsbD n = (c >>> n).getLsbD 0 := by
      rw [BitVec.getLsbD_ushiftRight, Nat.add_zero]
    rw [List.range_succ, List.foldl_append, ih, List.foldl_cons, List.foldl_nil, hbit,
      crcBit_lastBit v hv, BitVec.shiftRight_add]

/-- Under right shift the register's own value, as data, leads to 0. -/
theorem crcByte_self (v : CrcVariant) (hv : v = .refl8C ∨ v = .reflE0) (c : Byte) :
    crcByte v c c = 0x00#8 :=
  (crcBits_self v hv c 8).trans (BitVec.ushiftRight_eq_zero (Nat.le_refl 8))

/-- Settles O22: the last byte is the register's own value; the left shift reads it in the other bit
order, and 01 is a counterexample there. -/
theorem crcSelfCheckYieldsZero : Obligations.CrcSelfCheckYieldsZero := by
  refine ⟨?_, by decide, by decide⟩
  intro v s hv
  calc crc8 v (s ++ [crc8 v s])
    _ = crcByte v (crc8 v s) (crc8 v s) := crcFrom_append v 0x00#8 s [crc8 v s]
    _ = 0x00#8 := crcByte_self v hv (crc8 v s)

/-! ### One flipped bit -/

/-- Zero bytes keep a register of 0. -/
theorem crcFrom_zeros (v : CrcVariant) (n : Nat) :
    crcFrom v 0x00#8 (List.replicate n 0x00#8) = 0x00#8 := by
  induction n with
  | zero => rfl
  | succ n ih =>
    have hzero : crcByte v 0x00#8 0x00#8 = 0x00#8 := by cases v <;> decide
    rw [List.replicate_succ]
    exact (congrArg (crcFrom v · (List.replicate n 0x00#8)) hzero).trans ih

/-- A zero byte keeps a register other than 0 so. -/
theorem crcByte_zero_ne (v : CrcVariant) (c : Byte) (hc : c ≠ 0x00#8) :
    crcByte v c 0x00#8 ≠ 0x00#8 := by
  cases v <;> (revert c; decide)

/-- Zero bytes keep a register other than 0 so. -/
theorem crcFrom_zeros_ne (v : CrcVariant) (n : Nat) (c : Byte) (hc : c ≠ 0x00#8) :
    crcFrom v c (List.replicate n 0x00#8) ≠ 0x00#8 := by
  induction n generalizing c with
  | zero => exact hc
  | succ n ih =>
    rw [List.replicate_succ]
    exact ih (crcByte v c 0x00#8) (crcByte_zero_ne v c hc)

/-- One bit leads a register of 0 to another value. -/
theorem crcByte_bit_ne (v : CrcVariant) (k : Nat) (hk : k < 8) :
    crcByte v 0x00#8 (1#8 <<< k) ≠ 0x00#8 := by
  cases v <;> (revert k; decide)

/-- One bit is not 0. -/
theorem bit_ne_zero (k : Nat) (hk : k < 8) : (1#8 <<< k : Byte) ≠ 0x00#8 := by
  revert k; decide

/-- The sequence with bit `k` of byte `m` set, and `n` bytes after it. -/
def oneBit (m n k : Nat) : List Byte :=
  List.replicate m 0x00#8 ++ [1#8 <<< k] ++ List.replicate n 0x00#8

theorem crc8_oneBit_ne (v : CrcVariant) (m n k : Nat) (hk : k < 8) :
    crc8 v (oneBit m n k) ≠ 0x00#8 := by
  rw [crc8, oneBit, crcFrom_append, crcFrom_append, crcFrom_zeros]
  exact crcFrom_zeros_ne v n _ (crcByte_bit_ne v k hk)

/-- XOR with zero bytes is no change. -/
theorem xorBytes_zeros (b : List Byte) : xorBytes b (List.replicate b.length 0x00#8) = b := by
  induction b with
  | nil => rfl
  | cons x b ih => exact congrArg₂ List.cons BitVec.xor_zero ih

/-- Flipping a bit is XOR with the sequence that has that bit alone. -/
theorem flipBit_eq_xorBytes (b : List Byte) (j k : Nat) (hj : j < b.length) :
    flipBit b j k = xorBytes b (oneBit j (b.length - 1 - j) k) := by
  induction b generalizing j with
  | nil => cases hj
  | cons x b ih =>
    cases j with
    | zero => exact congrArg (_ :: ·) (xorBytes_zeros b).symm
    | succ j =>
      have hlen : (x :: b).length - 1 - (j + 1) = b.length - 1 - j := by
        rw [List.length_cons]; omega
      rw [hlen]
      exact congrArg₂ List.cons BitVec.xor_zero.symm (ih j (Nat.lt_of_succ_lt_succ hj))

theorem oneBit_length (m n k : Nat) : (oneBit m n k).length = m + 1 + n := by
  simp only [oneBit, List.length_append, List.length_replicate, List.length_singleton]

/-- A flipped bit changes the CRC. -/
theorem crc8_flipBit_ne (v : CrcVariant) (b : List Byte) (j k : Nat) (hj : j < b.length)
    (hk : k < 8) : crc8 v (flipBit b j k) ≠ crc8 v b := by
  have hlen : b.length = (oneBit j (b.length - 1 - j) k).length := by
    rw [oneBit_length]; omega
  rw [flipBit_eq_xorBytes b j k hj, crc8_xor v _ _ hlen]
  intro hsame
  exact crc8_oneBit_ne v j _ k hk (xor_left_eq_self_iff.mp hsame)

/-- A flipped bit before the last byte. -/
theorem flipBit_append_left (b : List Byte) (c : Byte) (j k : Nat) (hj : j < b.length) :
    flipBit (b ++ [c]) j k = flipBit b j k ++ [c] := by
  simp [flipBit, List.set_append_left _ _ hj, List.getElem?_append_left hj]

/-- A flipped bit of the last byte. -/
theorem flipBit_append_right (b : List Byte) (c : Byte) (k : Nat) :
    flipBit (b ++ [c]) b.length k = b ++ [c ^^^ 1#8 <<< k] := by
  simp [flipBit]

/-- Settles O23: the CRC is linear, and a sequence of one bit has a CRC other than 0; so a flip
before the last byte changes the CRC those bytes need, and a flip in the last byte changes the CRC
they have. -/
theorem singleBitErrorsFailTheCrcCheck : Obligations.SingleBitErrorsFailTheCrcCheck := by
  intro v
  refine ⟨crc8_xor v, crc8_oneBit_ne v, ?_⟩
  intro b j k hj hk bad hlast
  obtain hbefore | rfl := Nat.lt_or_eq_of_le hj
  · have hbad : bad = flipBit b j k ++ [crc8 v b] := flipBit_append_left b _ j k hbefore
    rw [hbad, List.getLast?_concat, List.dropLast_concat] at hlast
    exact crc8_flipBit_ne v b j k hbefore hk (Option.some.inj hlast).symm
  · have hbad : bad = b ++ [crc8 v b ^^^ 1#8 <<< k] := flipBit_append_right b _ k
    rw [hbad, List.getLast?_concat, List.dropLast_concat] at hlast
    exact bit_ne_zero k hk (xor_left_eq_self_iff.mp (Option.some.inj hlast))

end Sys2Proof.Proofs.Checksum
end

section
/-! Proofs of the properties of fields and replies (41_register_map.md section 3,
42_datagram_codec.md sections 3 and 4). -/

namespace Sys2Proof.Proofs.FieldsAndReplies

open Sys2Proof Sys2Proof.Machine

/-! ### The bits of a field (R69 conditions 2 and 3) -/

/-- The field's width is the number of bits of its mask, whose lowest is its shift: it ends inside
the word. -/
theorem descWidth_le (D : Descriptor) (h : maskOk D = true) :
    D.shift.val + descWidth D ≤ 32 := by
  obtain ⟨-, hall⟩ := Bool.and_eq_true_iff.mp h
  have hbits := List.all_eq_true.mp hall
  have hcount :
      descWidth D ≤ ((List.range 32).filter fun i => decide (D.shift.val ≤ i)).length := by
    rw [descWidth, ← List.countP_eq_length_filter, ← List.countP_eq_length_filter]
    refine List.countP_mono_left fun i hi hbit => ?_
    have hinField := (beq_iff_eq.mp (hbits i hi)).symm.trans hbit
    obtain ⟨hshift, -⟩ := Bool.and_eq_true_iff.mp hinField
    exact hshift
  have habove : ∀ s : Fin 32,
      ((List.range 32).filter fun i => decide (s.val ≤ i)).length = 32 - s.val := by decide
  have hshift := D.shift.isLt
  rw [habove D.shift] at hcount
  omega

/-- Bit `i` is in the field where it lies in the `descWidth` bits from the shift on. -/
theorem mask_getLsbD (D : Descriptor) (h : maskOk D = true) (i : Nat) :
    D.mask.getLsbD i = (decide (D.shift.val ≤ i) && decide (i < D.shift.val + descWidth D)) := by
  by_cases hi : i < 32
  · obtain ⟨-, hall⟩ := Bool.and_eq_true_iff.mp h
    exact beq_iff_eq.mp (List.all_eq_true.mp hall i (List.mem_range.mpr hi))
  · have hle := descWidth_le D h
    rw [BitVec.getLsbD_of_ge _ _ (Nat.not_lt.mp hi), decide_eq_false (by omega : ¬ i < _),
      Bool.and_false]

/-- A value in the mask is what the mask keeps of it. -/
theorem and_mask_of_outside_zero (raw mask : Word) (h : raw &&& ~~~mask = 0) : raw &&& mask = raw :=
  calc raw &&& mask
    _ = (raw &&& mask) ||| (raw &&& ~~~mask) := h ▸ BitVec.or_zero.symm
    _ = raw := by rw [← BitVec.and_or_distrib_left, BitVec.or_not_self, BitVec.and_allOnes]

/-- Bit `j` of the field after a merge is bit `j` of the value. -/
theorem extract_merge_getLsbD (D : Descriptor) (h : maskOk D = true) (old v : Word) (j : Nat) :
    (extract (merge old v D) D).getLsbD j = (decide (j < descWidth D) && v.getLsbD j) := by
  have hle := descWidth_le D h
  have hmask := mask_getLsbD D h (D.shift.val + j)
  simp only [extract, merge, place, BitVec.getLsbD_ushiftRight, BitVec.getLsbD_and,
    BitVec.getLsbD_or, BitVec.getLsbD_not, BitVec.getLsbD_shiftLeft, hmask]
  by_cases hj : j < descWidth D
  · have hin : D.shift.val + j < 32 := by omega
    simp [hj, hin]
  · simp [hj]

/-- Settles O24: the mask is the bits from the shift on, as many as the width, so a merged field
holds the low bits of the value, and nothing outside the mask is touched. -/
theorem extractReadsBackWhatMergeWrote : Obligations.ExtractReadsBackWhatMergeWrote := by
  intro D h
  refine ⟨?extract, fun old v => ⟨?merged, ?outside⟩⟩
  case extract =>
    intro raw hraw
    rw [extract, and_mask_of_outside_zero raw D.mask hraw]
  case merged =>
    refine Nat.eq_of_testBit_eq fun j => ?_
    rw [Nat.testBit_mod_two_pow]
    exact extract_merge_getLsbD D h old v j
  case outside =>
    have hplace : place v D &&& ~~~D.mask = 0#32 := by
      rw [place, BitVec.and_assoc, BitVec.and_not_self]
      exact BitVec.and_zero
    rw [merge, BitVec.and_or_distrib_right, BitVec.and_assoc, BitVec.and_self, hplace,
      BitVec.or_zero]

/-! ### Replies under a legal layout (R57, R78) -/

/-- What a legal layout promises of the offsets (R7). -/
theorem layoutOk_bounds (l : ReplyLayout) (h : layoutOk l = true) :
    7 ≤ l.len ∧ l.addrOff ≤ l.len - 2 ∧ l.regOff ≤ l.len - 2 ∧ l.dataOff + 3 ≤ l.len - 2 := by
  simp only [layoutOk, Bool.and_eq_true, decide_eq_true_eq] at h
  obtain ⟨⟨⟨⟨⟨⟨⟨hlen, -⟩, haddr⟩, hreg⟩, hdata⟩, -⟩, -⟩, -⟩ := h
  exact ⟨hlen, haddr, hreg, hdata⟩

/-- A reply that ends with its CRC parses to the bytes at the offsets of its layout. -/
theorem parse_sealed (P : Params) (b : List Byte) (hlen : b.length + 1 = P.replyLayout.len) :
    parse P (sealed P b) =
      let l := P.replyLayout
      let p := sealed P b
      some (p.getD l.addrOff 0, p.getD l.regOff 0,
        unbe32 (p.getD l.dataOff 0) (p.getD (l.dataOff + 1) 0) (p.getD (l.dataOff + 2) 0)
          (p.getD (l.dataOff + 3) 0)) := by
  have hlast : P.replyLayout.len - 1 = b.length := by omega
  have hcrc : (sealed P b).getD b.length 0 = crc8 P.crcVariant ((sealed P b).take b.length) := by
    simp [sealed]
  rw [parse, hlast]
  exact if_pos hcrc

/-- Byte `j` of a sealed sequence, before the CRC. -/
theorem sealed_getD (P : Params) (b : List Byte) (j : Nat) (hj : j < b.length) :
    (sealed P b).getD j 0 = b.getD j 0 := by
  simp [sealed, List.getElem?_append_left hj]

/-- A byte of a window of the sequence. -/
theorem getD_of_window (b w : List Byte) (off n j : Nat) (h : (b.drop off).take n = w)
    (hj : j < n) : b.getD (off + j) 0 = w.getD j 0 := by
  subst h
  simp [hj]

/-- The reply of two echoes and four payload bytes under COMPACT7. -/
theorem parse_compact7_fields (P : Params) (a r : Byte) (d : Word) (h : P.replyLayout = compact7) :
    parse P ([a, r] ++ be32 d ++ [crc8 P.crcVariant ([a, r] ++ be32 d)]) = some (a, r, d) := by
  refine (parse_compact7 P h a r _ _ _ _ _).trans ((if_pos rfl).trans ?_)
  rw [unbe32_be32]

/-- Settles O25: the parser takes the CRC from the end and each field from its offset. -/
theorem syntheticRepliesParse : Obligations.SyntheticRepliesParse := by
  refine ⟨?_, parse_compact7_fields⟩
  intro P b a r d hlayout hlen haddr hreg hdata
  obtain ⟨hmin, haddrOff, hregOff, hdataOff⟩ := layoutOk_bounds P.replyLayout hlayout
  have hbyte (j : Nat) (hj : j < 4) :
      (sealed P b).getD (P.replyLayout.dataOff + j) 0 = (be32 d).getD j 0 := by
    rw [sealed_getD P b _ (by omega), getD_of_window b (be32 d) _ 4 j hdata hj]
  have hecho (off : Nat) (x : Byte) (hx : b[off]? = some x) : (sealed P b).getD off 0 = x := by
    have hoff : off < b.length := (List.getElem?_eq_some_iff.mp hx).1
    rw [sealed_getD P b off hoff, List.getD_eq_getElem?_getD, hx, Option.getD_some]
  have hfirst : (sealed P b).getD P.replyLayout.dataOff 0 = (be32 d).getD 0 0 := hbyte 0 (by omega)
  refine (parse_sealed P b hlen).trans ?_
  simp only [hecho _ a haddr, hecho _ r hreg, hfirst, hbyte 1 (by omega), hbyte 2 (by omega),
    hbyte 3 (by omega)]
  exact congrArg (fun d => some (a, r, d)) (unbe32_be32 d)

/-- Settles O26: under ECHO9 the offsets are those of the node, the register byte and the data of a
write datagram. -/
theorem echo9ParsesWriteDatagrams : Obligations.Echo9ParsesWriteDatagrams := by
  intro P n D d h
  rw [buildWrite, parse_sealed P _ (by rw [h]; rfl), h]
  exact congrArg (fun d => some (_, _, d)) (unbe32_be32 d)

end Sys2Proof.Proofs.FieldsAndReplies
end

section
/-! Proofs of the properties of the converters: the clock constant (44_device_handle.md sections 2
and 3), the velocity and the step count (45_motion.md sections 1 and 2). -/

namespace Sys2Proof.Proofs.Converters

open Sys2Proof Sys2Proof.Machine Sys2Proof.Proofs.Motion

/-! ### The clock constant (R89) -/

/-- Rounding half up by an even divisor adds half of it. -/
theorem clockConstNat_eq (P : Params) (steps : BitVec 16) (m : Nat) :
    clockConstNat P steps m =
      (steps.toNat * 2 ^ (8 - m) * 2 ^ 40 + 30 * P.fClk) / (60 * P.fClk) := by
  rw [clockConstNat, roundHalfUp, mult_eq, show 60 * P.fClk / 2 = 30 * P.fClk by omega]

/-- The bound of R89, which is that of 65535 steps at code 0 and 1 MHz. -/
theorem clockConstNat_le (P : Params) (steps : BitVec 16) (m : Nat) (hF : 1000000 ≤ P.fClk) :
    clockConstNat P steps m ≤ 307441043312 := by
  have hproduct : steps.toNat * mult m ≤ 65535 * 256 :=
    Nat.mul_le_mul (by omega) (mult_le m)
  rw [clockConstNat_eq, ← mult_eq, Nat.div_le_iff_le_mul_add_pred (by omega)]
  omega

/-- Settles O27: the constant is below the bound, and the bound below 2^48. -/
theorem clockConstantFitsItsField : Obligations.ClockConstantFitsItsField := by
  intro P steps m hF _
  have hle := clockConstNat_le P steps m hF
  have hexact : (clockConstOf P steps m).toNat = clockConstNat P steps m :=
    (BitVec.toNat_ofNat ..).trans (Nat.mod_eq_of_lt (by omega))
  rw [hexact]
  exact ⟨clockConstNat_eq P steps m, hle⟩

/-- Settles O28: the model's multiplier and clock constant, evaluated at the nine codes. -/
theorem microstepTableIsMet : Obligations.MicrostepTableIsMet := by
  unfold Obligations.MicrostepTableIsMet
  decide

/-! ### The velocity (R13, R93) -/

/-- Rounding is odd. -/
theorem roundHalfAway_neg (a : Int) (b : Nat) : roundHalfAway (-a) b = -roundHalfAway a b := by
  simp only [roundHalfAway, Int.sign_neg, Int.natAbs_neg, Int.neg_mul]

/-- `v` is the nearest integer to `x / 2^32`, and the one farther from zero at a tie. -/
def IsNearest (v x : Int) : Prop :=
  2 * |v * 2 ^ 32 - x| ≤ 2 ^ 32 ∧ (2 * |v * 2 ^ 32 - x| = 2 ^ 32 → |x| < |v| * 2 ^ 32)

theorem IsNearest.neg {v x : Int} (h : IsNearest v x) : IsNearest (-v) (-x) := by
  have hdiff : |-v * 2 ^ 32 - -x| = |v * 2 ^ 32 - x| := by
    rw [← abs_neg (v * 2 ^ 32 - x)]
    congr 1
    ring
  rw [IsNearest, hdiff, abs_neg, abs_neg]
  exact h

/-- A magnitude is rounded half up. -/
theorem roundHalfAway_natCast (n : Nat) :
    roundHalfAway n (2 ^ 32) = (((n + 2 ^ 31) / 2 ^ 32 : Nat) : Int) := by
  rw [roundHalfAway_q32, Int.natAbs_natCast]
  cases n with
  | zero => rfl
  | succ n => rw [Int.sign_eq_one_of_pos (by omega), one_mul]

theorem isNearest_roundHalfAway_natCast (n : Nat) : IsNearest (roundHalfAway n (2 ^ 32)) n := by
  rw [roundHalfAway_natCast]
  set q : Nat := (n + 2 ^ 31) / 2 ^ 32 with hq
  have hlow : q * 2 ^ 32 ≤ n + 2 ^ 31 := by omega
  have hhigh : n + 2 ^ 31 < (q + 1) * 2 ^ 32 := by omega
  rw [IsNearest, Nat.abs_cast, Nat.abs_cast]
  obtain ⟨habs, -⟩ | ⟨habs, -⟩ := abs_cases ((q : Int) * 2 ^ 32 - n) <;> rw [habs] <;> omega

/-- Every integer is rounded to the nearest, away from zero at a tie: by its magnitude, as rounding
is odd. -/
theorem isNearest_roundHalfAway (x : Int) : IsNearest (roundHalfAway x (2 ^ 32)) x := by
  obtain ⟨n, rfl | rfl⟩ := Int.eq_nat_or_neg x
  · exact isNearest_roundHalfAway_natCast n
  · rw [roundHalfAway_neg]
    exact (isNearest_roundHalfAway_natCast n).neg

/-- A velocity is accepted exactly where the rounded product is in the field's range (R93). -/
theorem velocity_eq_some_iff (P : Params) (rpm : Int) (cc : Nat) (v : Int) :
    velocity P rpm cc = some v ↔
      roundHalfAway (rpm * cc * signValue P.directionSign) (2 ^ 32) = v ∧
        -(2 ^ (P.vactualWidth - 1)) ≤ v ∧ v ≤ 2 ^ (P.vactualWidth - 1) - 1 := by
  simp only [velocity]
  split
  next hout =>
    constructor
    · intro h
      cases h
    · rintro ⟨rfl, hlow, hhigh⟩
      omega
  next hin =>
    rw [not_or, not_lt, not_lt] at hin
    constructor
    · intro h
      cases h
      exact ⟨rfl, hin⟩
    · rintro ⟨rfl, -⟩
      rfl

/-- Settles O29: an accepted velocity is the rounded product, and rounding is odd. -/
theorem velocityRoundsHalfAwayFromZero : Obligations.VelocityRoundsHalfAwayFromZero := by
  intro P rpm cc v hv x
  obtain ⟨hround, hlow, hhigh⟩ := (velocity_eq_some_iff P rpm cc v).mp hv
  obtain ⟨hnear, htie⟩ : IsNearest v x := hround ▸ isNearest_roundHalfAway x
  refine ⟨hnear, htie, hlow, hhigh, fun hopposite => ?_⟩
  refine (velocity_eq_some_iff P (-rpm) cc (-v)).mpr ⟨?_, by omega, hopposite⟩
  rw [Int.neg_mul, Int.neg_mul, roundHalfAway_neg, hround]

/-! ### The step count (R95) -/

/-- Settles O30: the bounds are those of the rounded share of a turn, which the angle enters modulo
a turn. -/
theorem angleCountsStayBelowATurn : Obligations.AngleCountsStayBelowATurn := by
  intro angle steps m _ hsteps
  refine ⟨?turn, ?bits, ?modulo⟩
  case turn =>
    rw [← mult_eq]
    obtain hzero | hlt := angleSteps_lt angle steps m <;> omega
  case bits =>
    have hfield : (BitVec.ofNat 16 steps).toNat = steps :=
      (BitVec.toNat_ofNat ..).trans (Nat.mod_eq_of_lt hsteps)
    exact hfield ▸ angleSteps_lt_24 angle (BitVec.ofNat 16 steps) m
  case modulo =>
    rw [angleSteps, Nat.add_mod_right]
    rfl

end Sys2Proof.Proofs.Converters
end

section
/-! Proofs about the assembler (30_encoding.md section 5): the pseudo-commands, and the exactness of
rpm and angle operands. -/

namespace Sys2Proof.Proofs.Assembler

open Sys2Proof Sys2Proof.Machine

/-! ### Pseudo-commands (R62) -/

set_option maxRecDepth 8000 in
/-- The lines of the pseudo-commands and of their expansions, evaluated. -/
theorem assembleLine_pseudo :
    assembleLine blockParams "STOP_VELOCITY".toList = some (.setSpeed 0) ∧
    assembleLine blockParams "SET_SPEED 0".toList = some (.setSpeed 0) ∧
    assembleLine blockParams "READ_MRES".toList = some (.readAccess 0x6C) ∧
    assembleLine blockParams "READ_ACCESS R_CHOPCONF".toList = some (.readAccess 0x6C) ∧
    assembleLine blockParams "READ_SG".toList = some (.readAccess 0x41) ∧
    assembleLine blockParams "READ_ACCESS R_SG_RESULT".toList = some (.readAccess 0x41) ∧
    assembleLine blockParams "REFRESH R_GCONF".toList = some (.readAccess 0x00) ∧
    assembleLine blockParams "READ_ACCESS R_GCONF".toList = some (.readAccess 0x00) := by
  decide

/-- Settles O48: REFRESH and READ_ACCESS have one meaning of their operand text, and each fixed line
assembles to the same command as its expansion. -/
theorem pseudoCommandsExpand : Obligations.PseudoCommandsExpand := by
  obtain ⟨hstop, hspeed, hmres, hchopconf, hsg, hsgResult, hrefresh, hgconf⟩ := assembleLine_pseudo
  exact ⟨fun _ _ => rfl, hstop.trans hspeed.symm, hspeed, hmres.trans hchopconf.symm, hchopconf,
    hsg.trans hsgResult.symm, hsgResult, hrefresh.trans hgconf.symm, hgconf⟩

/-! ### Exact operands (R61) -/

/-- A decimal is scaled exactly where its product with 2^16 is an integer in the range. -/
theorem scaled?_eq_some_iff (lo hi : Int) (d : Decimal) (q : Int) :
    scaled? lo hi d = some q ↔ q * 10 ^ d.places = d.mantissa * 2 ^ 16 ∧ lo ≤ q ∧ q ≤ hi := by
  have hten : (10 : Int) ^ d.places ≠ 0 := by positivity
  simp only [scaled?]
  split
  next hdvd =>
    have hquot : d.mantissa * 2 ^ 16 / 10 ^ d.places * 10 ^ d.places = d.mantissa * 2 ^ 16 :=
      Int.ediv_mul_cancel (Int.dvd_of_emod_eq_zero hdvd)
    have hunique : q * 10 ^ d.places = d.mantissa * 2 ^ 16 ↔
        d.mantissa * 2 ^ 16 / 10 ^ d.places = q := by
      rw [← hquot, mul_left_inj' hten, hquot, eq_comm]
    rw [hunique]
    split
    next hin =>
      rw [Option.some_inj]
      exact ⟨fun h => ⟨h, h ▸ hin⟩, And.left⟩
    next hout =>
      constructor
      · intro h
        cases h
      · rintro ⟨rfl, hrange⟩
        exact absurd hrange hout
  next hnot =>
    constructor
    · intro h
      cases h
    · rintro ⟨hq, -⟩
      exact absurd (hq ▸ Int.mul_emod_left ..) hnot

/-- A word is the encoding of an integer of the signed range exactly where its signed value is it.
-/
theorem ofInt_eq_iff_toInt (q : Int) (w : Word) (hlow : -(2 ^ 31) ≤ q) (hhigh : q ≤ 2 ^ 31 - 1) :
    BitVec.ofInt 32 q = w ↔ w.toInt = q := by
  constructor
  · rintro rfl
    exact BitVec.toInt_ofInt_eq_self (by decide) hlow (by omega)
  · rintro rfl
    exact BitVec.ofInt_toInt

/-- A word is the encoding of an integer of the unsigned range exactly where its value is it. -/
theorem ofInt_eq_iff_toNat (q : Int) (w : Word) (hlow : 0 ≤ q) (hhigh : q ≤ 2 ^ 32 - 1) :
    BitVec.ofInt 32 q = w ↔ (w.toNat : Int) = q := by
  obtain ⟨n, rfl⟩ := Int.eq_ofNat_of_zero_le hlow
  rw [BitVec.ofInt_natCast, ← BitVec.toNat_inj, BitVec.toNat_ofNat, Nat.mod_eq_of_lt (by omega),
    Nat.cast_inj, eq_comm]

/-- An operand text is accepted exactly where it is a decimal number that scales to an integer of
the range, and then with the word of that integer. -/
theorem scaledOperand_eq_some_iff (lo hi : Int) (text : List Char) (w : Word) (value : Word → Int)
    (hvalue : ∀ q, lo ≤ q → q ≤ hi → (BitVec.ofInt 32 q = w ↔ value w = q)) :
    ((decimal? text).bind (scaled? lo hi)).map (BitVec.ofInt 32) = some w ↔
      ∃ (d : Decimal) (q : Int), decimal? text = some d ∧
        q * 10 ^ d.places = d.mantissa * 2 ^ 16 ∧ lo ≤ q ∧ q ≤ hi ∧ value w = q := by
  simp only [Option.map_eq_some_iff, Option.bind_eq_some_iff, scaled?_eq_some_iff]
  constructor
  · rintro ⟨q, ⟨d, hd, hq, hlow, hhigh⟩, hw⟩
    exact ⟨d, q, hd, hq, hlow, hhigh, (hvalue q hlow hhigh).mp hw⟩
  · rintro ⟨d, q, hd, hq, hlow, hhigh, hw⟩
    exact ⟨q, ⟨d, hd, hq, hlow, hhigh⟩, (hvalue q hlow hhigh).mpr hw⟩

/-- Settles O49: a raw word is tried first; any other text is a decimal number, scaled without
rounding. -/
theorem assemblerNeverRounds : Obligations.AssemblerNeverRounds := by
  refine ⟨?rawRpm, ?rpm, ?rawAngle, ?angle⟩
  case rawRpm =>
    intro text w hraw
    simp only [rpmOperand?, hraw]
  case rpm =>
    intro text w hraw
    simp only [rpmOperand?, hraw]
    exact scaledOperand_eq_some_iff _ _ _ w BitVec.toInt fun q => ofInt_eq_iff_toInt q w
  case rawAngle =>
    intro text w hraw
    simp only [angleOperand?, hraw]
  case angle =>
    intro text w hraw
    simp only [angleOperand?, hraw]
    exact scaledOperand_eq_some_iff _ _ _ w (fun w => (w.toNat : Int))
      fun q => ofInt_eq_iff_toNat q w

end Sys2Proof.Proofs.Assembler
end
